-- ==== Sys2Proof/Word.lean ====
section
/-! DEFINITION. The bit-vector types of the CHIP-8 core (spec/00_scope.md R6, R13, R17).
All values are unsigned (R13), so the plain `BitVec` arithmetic, which wraps, is the spec's arithmetic. -/

namespace Sys2Proof

/-- A general register, a memory byte, a timer or the immediate `KK` (R6, R17). -/
abbrev Byte := BitVec 8

/-- An opcode, `pc`, `I` or a return address: the 16-bit fields of R6. -/
abbrev Word := BitVec 16

/-- A 4-bit field of an opcode: the register indices `X`, `Y` and the sprite height `N` (R17). -/
abbrev Nibble := BitVec 4

/-- The 12-bit field `NNN` (R17), and the width of `FONT_BASE` (R32). -/
abbrev Addr := BitVec 12

end Sys2Proof
end

