-- ==== Sys2Proof/Config.lean ====
section
/-! DEFINITION. What an implementation fixes and the spec leaves open, and the free values
(spec/00_scope.md R8, R11; spec/93_implementation_defined.md part 1, items 1 and 2). None of the
constants has a body: nothing can be proved of its value, so a claim holds whatever it is.
The parameters whose values the spec does give stand in Sys2Proof/Machine/Platform.lean. -/

namespace Sys2Proof

/-- `CYCLES_PER_FRAME`, the cycles one `tick` performs: OPEN, a natural number fixed for the life of
the machine (R8, D2). Log entry 4, DESIGN CHOICE. -/
opaque Config.cyclesPerFrame : Nat

/-- The free 8-bit draws of CXKK, one per index (R143, D22): `randomByte n` is draw number `n`,
under no law. Log entry 2, DESIGN CHOICE. -/
opaque Config.randomByte : Nat → Byte

end Sys2Proof
end

