-- ==== Sys2Proof/Machine/State.lean ====
section
/-! DEFINITION. The state of one core instance (spec/10_state.md R20 to R39) as plain data, the host's
transactions as data (spec/60_exceptions.md R270 to R283), the reasons a step can stop, and the state
after reset (spec/70_reset_and_hazards.md R290). -/

namespace Sys2Proof.Machine

/-- The run state `run` (R31, R255). -/
inductive RunState where
  | stopped   -- after reset, left by the host's `start()`
  | running   -- the only state in which cycles execute
  | faulted   -- entered by a fault, left only by `reset()`
deriving DecidableEq, Repr

/-- `fault_cause` (R33, R241). -/
inductive FaultCause where
  | none               -- no fault has been taken since reset
  | fetchOutOfBounds   -- a cycle started with pc > 0xFFE
  | memoryOutOfBounds  -- a data access needs an address above 0xFFF
  | stackOverflow      -- CALL on a full stack
deriving DecidableEq, Repr

/-- The kind of a report; the spec has one (R247). -/
inductive ReportKind where
  | unknownOpcode
deriving DecidableEq, Repr

/-- A report event `(kind, pc, opcode)` of the report log (R34, R247). -/
structure Report where
  kind   : ReportKind
  pc     : Word
  opcode : Word
deriving DecidableEq, Repr

/-- The host's transactions (R270 to R282), as plain data. Arguments have the types a host can pass,
wider than the core accepts where the spec says what the core does with the rest. -/
inductive HostTx where
  | loadFont (offset : Nat)                   -- R274
  | setKeyState (keyId : Nat) (pressed : Bool) -- R275
  | readFramebuffer                           -- R276
  | isSoundActive                             -- R277
  | loadRom (bytes : List Byte)               -- R278
  | start                                     -- R279
  | isRunning                                 -- R280
  | reset                                     -- R281
  | readStatus                                -- R282
  | tick (frameDelta : Nat)                   -- R270, R271
  | cycle                                     -- R273
  | timerStep                                 -- R273
deriving DecidableEq, Repr

/-- The 64 × 32 grid of 1-bit pixels, row-major: row `y`, then column `x` (R29). -/
abbrev Framebuffer := Vector (Vector Bool 64) 32

/-- Memory, as the cells that differ from their reset contents: addresses strictly rising, no cell
equal to what an unlisted address reads as (`Memory.wf` in Sys2Proof/Machine/Ops.lean). -/
abbrev Memory := List Host.Cell

/-- `Host.Outcome.fault` is never answered by this machine: the spec's faults have an entry that it
describes (R242), so taking one is a next state with `run = faulted` (log entry 7). The type has no
constructor, which makes that a fact Lean checks. Safe. -/
inductive Fault where
deriving DecidableEq, Repr

/-- Why a step has no meaning. -/
inductive Refusal where
  /-- An arm of `exec` whose instruction has no meaning yet. No arm raises it: every instruction is
  modelled. Safe. -/
  | notModelled (mnemonic : String)
deriving DecidableEq, Repr

/-- The state tuple of R39, and three fields of the model's own at the end. -/
structure State where
  /-- `V[0..15]`; `V[15]` is VF (R20, R21). -/
  v : Vector Byte 16
  /-- The index register `I` (R26). -/
  i : Word
  /-- The program counter (R23). -/
  pc : Word
  /-- The call stack, the last entry pushed at the end (R27). -/
  stack : List Word
  /-- The delay timer `DT` (R28). -/
  dt : Byte
  /-- The sound timer `ST` (R28). -/
  st : Byte
  /-- The 4096 bytes of memory (R50). -/
  mem : Memory
  /-- The framebuffer (R29). -/
  fb : Framebuffer
  /-- `key(0..15)`, true when pressed (R30). -/
  key : Vector Bool 16
  /-- The run state (R31). -/
  run : RunState
  /-- `FONT_BASE` (R32). -/
  fontBase : Addr
  /-- `fault_cause` (R33). -/
  faultCause : FaultCause
  /-- `fault_pc` (R33). -/
  faultPc : Word
  /-- `fault_opcode` (R33). -/
  faultOpcode : Word
  /-- The report log, oldest first (R34). -/
  reports : List Report
  /-- The model's own: how many random bytes CXKK has drawn (log entry 2, DESIGN CHOICE). -/
  draws : Nat
  /-- The model's own: the host's transactions issued and not yet performed, oldest first
  (log entry 1, DESIGN CHOICE). -/
  inbox : List HostTx
  /-- The model's own: the transaction that the host issues whenever it has issued no other, as a host
  that ticks forever does; none is a host that issues nothing more, and the core then makes no progress
  (R283; log entry 1, DESIGN CHOICE). -/
  standing : Option HostTx
deriving DecidableEq, Repr

/-- The reset state (R290): the values the spec gives. Memory lists nothing, so every byte has its
reset content (R59). The last three fields are the model's own (log entries 1 and 2, DESIGN CHOICE). -/
def State.reset : State where
  v := Vector.replicate 16 0
  i := 0
  pc := 0x200
  stack := []
  dt := 0
  st := 0
  mem := []
  fb := Vector.replicate 32 (Vector.replicate 64 false)
  key := Vector.replicate 16 false
  run := .stopped
  fontBase := 0
  faultCause := .none
  faultPc := 0
  faultOpcode := 0
  reports := []
  draws := 0
  inbox := []
  standing := none

end Sys2Proof.Machine
end

