-- ==== Sys2Proof/Machine/Platform.lean ====
section
/-! DEFINITION. The parameters and the map whose values the spec gives (spec/00_scope.md R6 to R10,
spec/20_memory.md R58 to R61). -/

namespace Sys2Proof.Machine

/-- `STACK_DEPTH` (R7: fixed at 16, 12 to 16 allowed). Log entry 3, DESIGN CHOICE. -/
def stackDepth : Nat := 16

/-- The number of memory cells (R6, R50). -/
def memSize : Nat := 0x1000

/-- Where the program is loaded and the first instruction is fetched (R58, R291). -/
def programBase : Nat := 0x200

/-- The longest sequence `load_rom` accepts (R278). -/
def maxRomLength : Nat := 0xE00

/-- The highest base address `load_font` accepts (R274). -/
def maxFontOffset : Nat := 0xFB0

/-- Glyphs 0 to 7, five rows each, top row first (R61). -/
def lowGlyphs : List Byte :=
  [0xF0, 0x90, 0x90, 0x90, 0xF0 /- 0 -/,
   0x20, 0x60, 0x20, 0x20, 0x70 /- 1 -/,
   0xF0, 0x10, 0xF0, 0x80, 0xF0 /- 2 -/,
   0xF0, 0x10, 0xF0, 0x10, 0xF0 /- 3 -/,
   0x90, 0x90, 0xF0, 0x10, 0x10 /- 4 -/,
   0xF0, 0x80, 0xF0, 0x10, 0xF0 /- 5 -/,
   0xF0, 0x80, 0xF0, 0x90, 0xF0 /- 6 -/,
   0xF0, 0x10, 0x20, 0x40, 0x40 /- 7 -/]

/-- Glyphs 8 to F (R61). -/
def highGlyphs : List Byte :=
  [0xF0, 0x90, 0xF0, 0x90, 0xF0 /- 8 -/,
   0xF0, 0x90, 0xF0, 0x10, 0xF0 /- 9 -/,
   0xF0, 0x90, 0xF0, 0x90, 0x90 /- A -/,
   0xE0, 0x90, 0xE0, 0x90, 0xE0 /- B -/,
   0xF0, 0x80, 0x80, 0x80, 0xF0 /- C -/,
   0xE0, 0x90, 0x90, 0x90, 0xE0 /- D -/,
   0xF0, 0x80, 0xF0, 0x80, 0xF0 /- E -/,
   0xF0, 0x80, 0xF0, 0x80, 0x80 /- F -/]

/-- `FONT_GLYPHS`, the 80 bytes of the font (R10, R61). Log entry 5, PRESUMED: the spec marks the
bytes as general knowledge. -/
def fontGlyphs : List Byte := lowGlyphs ++ highGlyphs

/-- What a byte of memory holds after reset, so what an unlisted address reads as (R59): the font at
0x000..0x04F, 0 everywhere else. Log entry 20. -/
def resetByte (a : Nat) : Byte := fontGlyphs.getD a 0

/-- The number the spec gives a fault cause (R241). -/
def faultCode : FaultCause → Nat
  | .none => 0
  | .fetchOutOfBounds => 1
  | .memoryOutOfBounds => 2
  | .stackOverflow => 3

end Sys2Proof.Machine
end

