-- ==== Sys2Proof/Machine/Ops.lean ====
section
/-! DEFINITION. The named operations over the state: memory, registers, the program counter, the call
stack, the framebuffer, the keypad, a report, and TAKING A FAULT (spec/10_state.md, spec/20_memory.md,
spec/60_exceptions.md R242 and R247). Every read and write of a piece of state goes through these. -/

namespace Sys2Proof.Machine

/-- What a cycle, an instruction or a host transaction answers. -/
abbrev Result := Host.Outcome State Fault Refusal

/-! ## Memory (R50, R51) -/

/-- The canonical form: addresses strictly rising and inside the memory, and no cell equal to what an
unlisted address reads as. -/
def Memory.wf (m : Memory) : Bool :=
  decide (m.Pairwise fun c d => c.1 < d.1)
    && m.all fun c => decide (c.1 < memSize) && c.2 != resetByte c.1

/-- The byte at an address: the listed one, else the reset content. -/
def Memory.read : Memory → Nat → Byte
  | [], a => resetByte a
  | c :: m, a => if c.1 = a then c.2 else Memory.read m a

/-- Put a cell in its place by address. -/
def Memory.insert (a : Nat) (b : Byte) : Memory → Memory
  | [] => [(a, b)]
  | c :: m => if a < c.1 then (a, b) :: c :: m else c :: Memory.insert a b m

/-- Write one byte: the old cell goes, and the new one is listed unless it is the reset content. -/
def Memory.write (m : Memory) (a : Nat) (b : Byte) : Memory :=
  let rest := m.filter fun c => c.1 != a
  if b = resetByte a then rest else Memory.insert a b rest

/-- `MemRead(a, 1)` (R51). -/
def State.readByte (s : State) (a : Nat) : Byte := s.mem.read a

/-- `MemWrite(a, 1, b)` (R51). -/
def State.writeByte (s : State) (a : Nat) (b : Byte) : State := { s with mem := s.mem.write a b }

/-- Consecutive writes from an address up, the first byte lowest (R163, R164, R274, R278). -/
def State.storeBytes (s : State) : Nat → List Byte → State
  | _, [] => s
  | a, b :: bs => (s.writeByte a b).storeBytes (a + 1) bs

/-- Consecutive reads from an address up (R191). -/
def State.loadBytes (s : State) (a count : Nat) : List Byte :=
  (List.range count).map fun k => s.readByte (a + k)

/-! ## Registers (R20, R26, R28) -/

/-- Register 15, which the flag-writing instructions also write (R21). -/
def vf : Nibble := 0xF

/-- `V[x]`. -/
def State.getV (s : State) (x : Nibble) : Byte := s.v[x.toNat]'x.isLt

/-- `V[x] <- b`. No register is hardwired (R20). -/
def State.setV (s : State) (x : Nibble) (b : Byte) : State :=
  { s with v := s.v.set x.toNat b x.isLt }

/-- `I <- w`. -/
def State.setI (s : State) (w : Word) : State := { s with i := w }

/-- `DT <- b`. -/
def State.setDt (s : State) (b : Byte) : State := { s with dt := b }

/-- `ST <- b`. -/
def State.setSt (s : State) (b : Byte) : State := { s with st := b }

/-- `V[k] <- MemRead(base + k, 1)` for k = 0 .. x, in that order (R165); no memory byte changes on the
way, so every byte is read from the state `s`. -/
def State.loadRegs (s : State) (base : Nat) : Nat → State
  | 0 => s.setV 0 (s.readByte base)
  | k + 1 =>
    (s.loadRegs base k).setV (BitVec.ofNat 4 (k + 1)) (s.readByte (base + (k + 1)))

/-- One random byte of CXKK (R143, D22): the next free draw. Log entry 2, DESIGN CHOICE. -/
def State.randomByte (s : State) : Byte := Config.randomByte s.draws

/-- The draw just read is used up: the next one is fresh (R143). -/
def State.nextDraw (s : State) : State := { s with draws := s.draws + 1 }

/-! ## The program counter (R23 to R25) -/

/-- `pc <- w`. -/
def State.setPc (s : State) (w : Word) : State := { s with pc := w }

/-- The fetch advance, done before the handler (R77). -/
def State.advance (s : State) : State := s.setPc (s.pc + 2)

/-- A skip: over exactly one more instruction when the condition holds (R105). -/
def State.skipIf (s : State) (c : Bool) : State := if c then s.setPc (s.pc + 2) else s

/-! ## The call stack (R27) -/

/-- `sp`, the number of entries held. -/
def State.sp (s : State) : Nat := s.stack.length

/-- `push(w)`. The bound is the caller's (R103). -/
def State.push (s : State) (w : Word) : State := { s with stack := s.stack ++ [w] }

/-- `pop()`: the state without the last entry. -/
def State.pop (s : State) : State := { s with stack := s.stack.dropLast }

/-- What `pop()` returns; none on an empty stack. -/
def State.top (s : State) : Option Word := s.stack.getLast?

/-! ## The framebuffer (R29) -/

/-- `fb(x, y)`. -/
def Framebuffer.pixel (fb : Framebuffer) (x : Fin 64) (y : Fin 32) : Bool := fb[y][x]

/-- `fb(x, y) <- fb(x, y) ^ 1`. -/
def Framebuffer.toggle (fb : Framebuffer) (x : Fin 64) (y : Fin 32) : Framebuffer :=
  fb.set y (fb[y].set x (!fb[y][x]))

/-- The framebuffer with every pixel 0 (R190). -/
def Framebuffer.clear : Framebuffer := Vector.replicate 32 (Vector.replicate 64 false)

/-- The framebuffer is replaced, by the clear or by a draw. -/
def State.setFb (s : State) (fb : Framebuffer) : State := { s with fb := fb }

/-! ## The keypad (R30, R210) -/

/-- `pressed(k)`: `key(k)` for k in 0..15, false for any other number (R210; D12, log entry 13). -/
def State.keyDown (s : State) (k : Nat) : Bool := s.key[k]?.getD false

/-- `key(k) <- pressed` for k in 0..15; there is no other key (R275; D26). -/
def State.setKey (s : State) (k : Nat) (pressed : Bool) : State :=
  { s with key := s.key.setIfInBounds k pressed }

/-! ## Run state, faults and reports -/

/-- `FONT_BASE <- base` (R32, R274). -/
def State.setFontBase (s : State) (base : Addr) : State := { s with fontBase := base }

/-- `run <- r`. -/
def State.setRun (s : State) (r : RunState) : State := { s with run := r }

/-- Fault entry (R242) from the state at the START of the faulting cycle (R243): `run` and the fault
record are written, everything else is as it was. `s.pc` is the faulting instruction's address. -/
def State.takeFault (s : State) (c : FaultCause) (op : Word) : State :=
  { s with run := .faulted, faultCause := c, faultPc := s.pc, faultOpcode := op }

/-- `raise Fault(c)` (R242): the cycle ends in the state that fault entry leaves. There is no handler
and no return from a fault (R242, R246). -/
def raise (c : FaultCause) (op : Word) (s : State) : Result := .next (s.takeFault c op)

/-- `report(UnknownOpcode, pc0, op)` (R247). -/
def State.report (s : State) (pc0 op : Word) : State :=
  { s with reports := s.reports ++ [⟨.unknownOpcode, pc0, op⟩] }

/-! ## Timers (R262) -/

/-- One count down, saturating at 0. -/
def countDown (b : Byte) : Byte := if b = 0 then 0 else b - 1

/-- `TimerStep()`: both timers, independently. -/
def State.timerStep (s : State) : State := (s.setDt (countDown s.dt)).setSt (countDown s.st)

end Sys2Proof.Machine
end

