-- ==== Sys2Proof/Machine/Flags.lean ====
section
/-! DEFINITION. The values the instructions of spec/41_register_alu.md and spec/43_display.md write to VF
as a flag (R21, R36). Each is computed from the operands before any reduction (R130). -/

namespace Sys2Proof.Machine

/-- A boolean used as a number (R14). -/
def flagByte (b : Bool) : Byte := if b then 1 else 0

/-- VF of 8XY4: the exact sum exceeds 255 (R138). -/
def carryFlag (sum : Nat) : Byte := flagByte (decide (sum > 255))

/-- VF of 8XY5 and 8XY7: no borrow when `b` is taken from `a`, equality included (R139, R141). -/
def noBorrowFlag (a b : Byte) : Byte := flagByte (decide (a.toNat ≥ b.toNat))

/-- VF of 8XY6: bit 0 before the shift (R140). -/
def lowBitFlag (a : Byte) : Byte := a &&& 1

/-- VF of 8XYE: bit 7 before the shift (R142). -/
def highBitFlag (a : Byte) : Byte := (a &&& 0x80) >>> 7

/-- VF of DXYN: some pixel went from 1 to 0 (R191). -/
def collisionFlag (hit : Bool) : Byte := flagByte hit

end Sys2Proof.Machine
end

