-- ==== Sys2Proof/Machine/Operands.lean ====
section
/-! DEFINITION. The operand forms: the 12-bit immediate, the block of memory at `I`, the font glyph, the
decimal digits, the keys and the sprite (spec/30_encoding.md R73, spec/42_index_memory.md R166,
spec/43_display.md R191, spec/44_timers_keypad.md R210). -/

namespace Sys2Proof.Machine

/-- `zext_16(NNN)` (R73). -/
def immWord (nnn : Addr) : Word := nnn.setWidth 16

/-- `zext_16(V[x])`, for the 16-bit sums (R104, R161). -/
def State.wideV (s : State) (x : Nibble) : Word := (s.getV x).setWidth 16

/-- The bytes `base .. base + count - 1` all exist: addresses are exact sums, with no wrap (R54, R166).
An empty block always does (R191; D11, log entry 12). -/
def blockInBounds (base : Word) (count : Nat) : Bool :=
  count == 0 || decide (base.toNat + count - 1 ≤ 0xFFF)

/-- The address of a glyph, `FONT_BASE + digit * 5`, with the digit not masked (R162). -/
def State.glyphAddress (s : State) (digit : Byte) : Word :=
  BitVec.ofNat 16 (s.fontBase.toNat + digit.toNat * 5)

/-- Hundreds, tens and units, in the order they are stored (R163). -/
def bcdDigits (b : Byte) : List Byte := [b / 100, (b / 10) % 10, b % 10]

/-- `V[0] .. V[x]`, in that order (R164). -/
def State.regsUpTo (s : State) (x : Nibble) : List Byte :=
  (List.range (x.toNat + 1)).map fun k => s.getV (BitVec.ofNat 4 k)

/-- The lowest-numbered pressed key (R215; D6, log entry 10). -/
def State.lowestKey (s : State) : Option Nat := (List.range 16).find? s.keyDown

/-! ## The sprite (R191) -/

/-- Column `x0 + col`, wrapped. -/
def wrapColumn (x : Nat) : Fin 64 := ⟨x % 64, Nat.mod_lt _ (by decide)⟩

/-- Row `y0 + row`, wrapped. -/
def wrapRow (y : Nat) : Fin 32 := ⟨y % 32, Nat.mod_lt _ (by decide)⟩

/-- Bit `7 - col` of a sprite byte: the most significant bit is the leftmost column. -/
def spriteBit (b : Byte) (col : Nat) : Bool := b.getLsbD (7 - col)

/-- A framebuffer being drawn on, and whether a pixel has gone off so far. -/
structure Canvas where
  fb  : Framebuffer
  hit : Bool

/-- Toggle one pixel; a collision when it is 0 afterwards, never taken back. -/
def drawPixel (c : Canvas) (x : Fin 64) (y : Fin 32) : Canvas :=
  let fb := c.fb.toggle x y
  ⟨fb, c.hit || !fb.pixel x y⟩

/-- One row of a sprite: the columns 0 .. 7 of one byte. -/
def drawRow (c : Canvas) (b : Byte) (x0 y : Nat) : Canvas :=
  (List.range 8).foldl
    (fun c col => if spriteBit b col then drawPixel c (wrapColumn (x0 + col)) (wrapRow y) else c) c

/-- The rows of a sprite, downwards from row `y`. -/
def drawSprite (c : Canvas) (x0 : Nat) : Nat → List Byte → Canvas
  | _, [] => c
  | y, b :: bs => drawSprite (drawRow c b x0 y) x0 (y + 1) bs

end Sys2Proof.Machine
end

