-- ==== Sys2Proof/Machine/Alu.lean ====
section
/-! DEFINITION. Register loads and the 8-bit ALU (spec/41_register_alu.md). The flag-writing
instructions write VF first and then V[X], and what is read for V[X] sees the VF just written (R131;
D9, log entry 11); the `sum` of 8XY4 is taken before. -/

namespace Sys2Proof.Machine

/-- 6XKK (R132). -/
def execLdImm (x : Nibble) (kk : Byte) (s : State) : Result := .next (s.advance.setV x kk)

/-- 7XKK (R133): no flag. -/
def execAddImm (x : Nibble) (kk : Byte) (s : State) : Result :=
  .next (s.advance.setV x (s.advance.getV x + kk))

/-- 8XY0 (R134). -/
def execLdReg (x y : Nibble) (s : State) : Result :=
  .next (s.advance.setV x (s.advance.getV y))

/-- 8XY1 (R135): VF is not cleared. -/
def execOrReg (x y : Nibble) (s : State) : Result :=
  .next (s.advance.setV x (s.advance.getV x ||| s.advance.getV y))

/-- 8XY2 (R136): VF is not cleared. -/
def execAndReg (x y : Nibble) (s : State) : Result :=
  .next (s.advance.setV x (s.advance.getV x &&& s.advance.getV y))

/-- 8XY3 (R137): VF is not cleared. -/
def execXorReg (x y : Nibble) (s : State) : Result :=
  .next (s.advance.setV x (s.advance.getV x ^^^ s.advance.getV y))

/-- 8XY4 (R138). -/
def execAddReg (x y : Nibble) (s : State) : Result :=
  let sum := (s.advance.getV x).toNat + (s.advance.getV y).toNat
  .next ((s.advance.setV vf (carryFlag sum)).setV x (BitVec.ofNat 8 sum))

/-- 8XY5 (R139). -/
def execSub (x y : Nibble) (s : State) : Result :=
  let s1 := s.advance.setV vf (noBorrowFlag (s.advance.getV x) (s.advance.getV y))
  .next (s1.setV x (s1.getV x - s1.getV y))

/-- 8XY6 (R140): the Y field is ignored. -/
def execShr (x _y : Nibble) (s : State) : Result :=
  let s1 := s.advance.setV vf (lowBitFlag (s.advance.getV x))
  .next (s1.setV x (s1.getV x >>> 1))

/-- 8XY7 (R141). -/
def execSubn (x y : Nibble) (s : State) : Result :=
  let s1 := s.advance.setV vf (noBorrowFlag (s.advance.getV y) (s.advance.getV x))
  .next (s1.setV x (s1.getV y - s1.getV x))

/-- 8XYE (R142): the Y field is ignored. -/
def execShl (x _y : Nibble) (s : State) : Result :=
  let s1 := s.advance.setV vf (highBitFlag (s.advance.getV x))
  .next (s1.setV x (s1.getV x <<< 1))

/-- CXKK (R143): one fresh draw, masked. -/
def execRnd (x : Nibble) (kk : Byte) (s : State) : Result :=
  .next (s.advance.nextDraw.setV x (s.randomByte &&& kk))

end Sys2Proof.Machine
end

