-- ==== Sys2Proof/Syntax.lean ====
section
/-! DEFINITION. The instructions: one constructor per row of spec/opcode_table.json, in the table's
order, named after the kinds of spec/30_encoding.md R74. Operands have the exact widths of R71 and
R73, so a term with an operand out of range cannot be written. -/

namespace Sys2Proof

/-- The closed set of 34 instruction kinds (R2, R74), each with the operand fields its row names. -/
inductive Instr where
  | cls                             -- 00E0
  | ret                             -- 00EE
  | jp (nnn : Addr)                 -- 1NNN
  | call (nnn : Addr)               -- 2NNN
  | seImm (x : Nibble) (kk : Byte)  -- 3XKK
  | sneImm (x : Nibble) (kk : Byte) -- 4XKK
  | seReg (x y : Nibble)            -- 5XY0
  | ldImm (x : Nibble) (kk : Byte)  -- 6XKK
  | addImm (x : Nibble) (kk : Byte) -- 7XKK
  | ldReg (x y : Nibble)            -- 8XY0
  | orReg (x y : Nibble)            -- 8XY1
  | andReg (x y : Nibble)           -- 8XY2
  | xorReg (x y : Nibble)           -- 8XY3
  | addReg (x y : Nibble)           -- 8XY4
  | sub (x y : Nibble)              -- 8XY5
  | shr (x y : Nibble)              -- 8XY6, the Y field is carried and ignored (R140)
  | subn (x y : Nibble)             -- 8XY7
  | shl (x y : Nibble)              -- 8XYE, the Y field is carried and ignored (R142)
  | sneReg (x y : Nibble)           -- 9XY0
  | ldI (nnn : Addr)                -- ANNN
  | jpV0 (nnn : Addr)               -- BNNN
  | rnd (x : Nibble) (kk : Byte)    -- CXKK
  | drw (x y n : Nibble)            -- DXYN
  | skp (x : Nibble)                -- EX9E
  | sknp (x : Nibble)               -- EXA1
  | ldVxDt (x : Nibble)             -- FX07
  | ldVxK (x : Nibble)              -- FX0A
  | ldDtVx (x : Nibble)             -- FX15
  | ldStVx (x : Nibble)             -- FX18
  | addIVx (x : Nibble)             -- FX1E
  | ldFVx (x : Nibble)              -- FX29
  | ldBVx (x : Nibble)              -- FX33
  | ldMemVx (x : Nibble)            -- FX55
  | ldVxMem (x : Nibble)            -- FX65
deriving DecidableEq, Repr

end Sys2Proof
end

