-- ==== Sys2Proof/WellFormed.lean ====
section
/-! DEFINITION. The opcode table (spec/opcode_table.json, the patterns of spec/30_encoding.md R74) as
data, and which words and instruction terms are well formed. The decoder of Sys2Proof/Decode.lean is
written from R74's decision tree, so the two can be held against each other. -/

namespace Sys2Proof

/-- One row of the opcode table: a word `w` is of this row when `w &&& mask = pattern`. -/
structure Row where
  mask    : Word
  pattern : Word
deriving DecidableEq, Repr

/-- The word carries the fixed bits of the row. -/
def Row.matches (r : Row) (w : Word) : Bool := w &&& r.mask == r.pattern

/-- The rows of families 0x0 to 0x7. -/
def lowRows : List Row :=
  [⟨0xF0FF, 0x00E0⟩ /- 00E0 -/,
   ⟨0xF0FF, 0x00EE⟩ /- 00EE -/,
   ⟨0xF000, 0x1000⟩ /- 1NNN -/,
   ⟨0xF000, 0x2000⟩ /- 2NNN -/,
   ⟨0xF000, 0x3000⟩ /- 3XKK -/,
   ⟨0xF000, 0x4000⟩ /- 4XKK -/,
   ⟨0xF000, 0x5000⟩ /- 5XY0 -/,
   ⟨0xF000, 0x6000⟩ /- 6XKK -/,
   ⟨0xF000, 0x7000⟩ /- 7XKK -/]

/-- The rows of family 0x8. -/
def aluRows : List Row :=
  [⟨0xF00F, 0x8000⟩ /- 8XY0 -/,
   ⟨0xF00F, 0x8001⟩ /- 8XY1 -/,
   ⟨0xF00F, 0x8002⟩ /- 8XY2 -/,
   ⟨0xF00F, 0x8003⟩ /- 8XY3 -/,
   ⟨0xF00F, 0x8004⟩ /- 8XY4 -/,
   ⟨0xF00F, 0x8005⟩ /- 8XY5 -/,
   ⟨0xF00F, 0x8006⟩ /- 8XY6 -/,
   ⟨0xF00F, 0x8007⟩ /- 8XY7 -/,
   ⟨0xF00F, 0x800E⟩ /- 8XYE -/]

/-- The rows of families 0x9 to 0xF. -/
def highRows : List Row :=
  [⟨0xF000, 0x9000⟩ /- 9XY0 -/,
   ⟨0xF000, 0xA000⟩ /- ANNN -/,
   ⟨0xF000, 0xB000⟩ /- BNNN -/,
   ⟨0xF000, 0xC000⟩ /- CXKK -/,
   ⟨0xF000, 0xD000⟩ /- DXYN -/,
   ⟨0xF0FF, 0xE09E⟩ /- EX9E -/,
   ⟨0xF0FF, 0xE0A1⟩ /- EXA1 -/,
   ⟨0xF0FF, 0xF007⟩ /- FX07 -/,
   ⟨0xF0FF, 0xF00A⟩ /- FX0A -/,
   ⟨0xF0FF, 0xF015⟩ /- FX15 -/,
   ⟨0xF0FF, 0xF018⟩ /- FX18 -/,
   ⟨0xF0FF, 0xF01E⟩ /- FX1E -/,
   ⟨0xF0FF, 0xF029⟩ /- FX29 -/,
   ⟨0xF0FF, 0xF033⟩ /- FX33 -/,
   ⟨0xF0FF, 0xF055⟩ /- FX55 -/,
   ⟨0xF0FF, 0xF065⟩ /- FX65 -/]

/-- The 34 rows of the opcode table, in its order (R2). -/
def opcodeTable : List Row := lowRows ++ aluRows ++ highRows

/-- A word that spells one of the 34 instructions: it is of some row (R82). Every other word is an
unknown opcode (R80). -/
def wellFormedWord (w : Word) : Bool := opcodeTable.any fun r => r.matches w

/-- The row of an instruction. -/
def Instr.row : Instr → Row
  | .cls => ⟨0xF0FF, 0x00E0⟩
  | .ret => ⟨0xF0FF, 0x00EE⟩
  | .jp _ => ⟨0xF000, 0x1000⟩
  | .call _ => ⟨0xF000, 0x2000⟩
  | .seImm _ _ => ⟨0xF000, 0x3000⟩
  | .sneImm _ _ => ⟨0xF000, 0x4000⟩
  | .seReg _ _ => ⟨0xF000, 0x5000⟩
  | .ldImm _ _ => ⟨0xF000, 0x6000⟩
  | .addImm _ _ => ⟨0xF000, 0x7000⟩
  | .ldReg _ _ => ⟨0xF00F, 0x8000⟩
  | .orReg _ _ => ⟨0xF00F, 0x8001⟩
  | .andReg _ _ => ⟨0xF00F, 0x8002⟩
  | .xorReg _ _ => ⟨0xF00F, 0x8003⟩
  | .addReg _ _ => ⟨0xF00F, 0x8004⟩
  | .sub _ _ => ⟨0xF00F, 0x8005⟩
  | .shr _ _ => ⟨0xF00F, 0x8006⟩
  | .subn _ _ => ⟨0xF00F, 0x8007⟩
  | .shl _ _ => ⟨0xF00F, 0x800E⟩
  | .sneReg _ _ => ⟨0xF000, 0x9000⟩
  | .ldI _ => ⟨0xF000, 0xA000⟩
  | .jpV0 _ => ⟨0xF000, 0xB000⟩
  | .rnd _ _ => ⟨0xF000, 0xC000⟩
  | .drw _ _ _ => ⟨0xF000, 0xD000⟩
  | .skp _ => ⟨0xF0FF, 0xE09E⟩
  | .sknp _ => ⟨0xF0FF, 0xE0A1⟩
  | .ldVxDt _ => ⟨0xF0FF, 0xF007⟩
  | .ldVxK _ => ⟨0xF0FF, 0xF00A⟩
  | .ldDtVx _ => ⟨0xF0FF, 0xF015⟩
  | .ldStVx _ => ⟨0xF0FF, 0xF018⟩
  | .addIVx _ => ⟨0xF0FF, 0xF01E⟩
  | .ldFVx _ => ⟨0xF0FF, 0xF029⟩
  | .ldBVx _ => ⟨0xF0FF, 0xF033⟩
  | .ldMemVx _ => ⟨0xF0FF, 0xF055⟩
  | .ldVxMem _ => ⟨0xF0FF, 0xF065⟩

/-- A well-formed instruction: its row stands in the opcode table. The operand fields need no check of
their own, because their types have the exact widths of R71 and R73. -/
def Instr.wellFormed (i : Instr) : Bool := opcodeTable.contains i.row

end Sys2Proof
end

