-- ==== Sys2Proof/Decode.lean ====
section
/-! DEFINITION. Decoding and encoding (spec/30_encoding.md R70 to R86, spec/20_memory.md R53): the
fields of an opcode, the decision tree of R74, the encoder with canonical spellings (R81, R85), and the
byte order of an instruction in memory. -/

namespace Sys2Proof

/-! ## Fields (R71, R17) -/

/-- `op[15:12]`, the family (R72). -/
def opFamily (op : Word) : Nibble := op.extractLsb' 12 4

/-- `X = op[11:8]`. -/
def opX (op : Word) : Nibble := op.extractLsb' 8 4

/-- `Y = op[7:4]`. -/
def opY (op : Word) : Nibble := op.extractLsb' 4 4

/-- `N = op[3:0]`. -/
def opN (op : Word) : Nibble := op.extractLsb' 0 4

/-- `KK = op[7:0]`. -/
def opKK (op : Word) : Byte := op.extractLsb' 0 8

/-- `NNN = op[11:0]`. -/
def opNNN (op : Word) : Addr := op.extractLsb' 0 12

/-! ## Decoding -/

/-- The four places where R80 says that a word is no instruction. -/
inductive UnknownOpcode where
  | family0  -- 0x0 with a low byte other than E0 and EE, every 0NNN call among them (R83)
  | family8  -- 0x8 with a low nibble of 8 to D, or F
  | familyE  -- 0xE with a low byte other than 9E and A1
  | familyF  -- 0xF with a low byte of no FXkk row
deriving DecidableEq, Repr

/-- What R74's `decode` answers: one instruction, or `Unknown` with the place that says so. -/
inductive Decoded where
  | instr (i : Instr)
  | unknown (why : UnknownOpcode)
deriving DecidableEq, Repr

/-- Family 0x0: the low byte decides, bits 11:8 are ignored (R74, R81; D16, log entry 15). -/
def decodeFamily0 (op : Word) : Decoded :=
  if opKK op = 0xE0 then .instr .cls
  else if opKK op = 0xEE then .instr .ret
  else .unknown .family0

/-- Family 0x8: the low nibble decides between nine kinds (R74, R75; C2). -/
def decodeFamily8 (op : Word) : Decoded :=
  if opN op = 0x0 then .instr (.ldReg (opX op) (opY op))
  else if opN op = 0x1 then .instr (.orReg (opX op) (opY op))
  else if opN op = 0x2 then .instr (.andReg (opX op) (opY op))
  else if opN op = 0x3 then .instr (.xorReg (opX op) (opY op))
  else if opN op = 0x4 then .instr (.addReg (opX op) (opY op))
  else if opN op = 0x5 then .instr (.sub (opX op) (opY op))
  else if opN op = 0x6 then .instr (.shr (opX op) (opY op))
  else if opN op = 0x7 then .instr (.subn (opX op) (opY op))
  else if opN op = 0xE then .instr (.shl (opX op) (opY op))
  else .unknown .family8

/-- Family 0xE: the low byte decides (R74). -/
def decodeFamilyE (op : Word) : Decoded :=
  if opKK op = 0x9E then .instr (.skp (opX op))
  else if opKK op = 0xA1 then .instr (.sknp (opX op))
  else .unknown .familyE

/-- Family 0xF: the low byte decides (R74). -/
def decodeFamilyF (op : Word) : Decoded :=
  if opKK op = 0x07 then .instr (.ldVxDt (opX op))
  else if opKK op = 0x0A then .instr (.ldVxK (opX op))
  else if opKK op = 0x15 then .instr (.ldDtVx (opX op))
  else if opKK op = 0x18 then .instr (.ldStVx (opX op))
  else if opKK op = 0x1E then .instr (.addIVx (opX op))
  else if opKK op = 0x29 then .instr (.ldFVx (opX op))
  else if opKK op = 0x33 then .instr (.ldBVx (opX op))
  else if opKK op = 0x55 then .instr (.ldMemVx (opX op))
  else if opKK op = 0x65 then .instr (.ldVxMem (opX op))
  else .unknown .familyF

/-- R74, total on every word. The last `else` is family 0xF, the one value left. Families 0x5 and 0x9
ignore `op[3:0]` (R81; D16, log entry 15). -/
def decodeWord (op : Word) : Decoded :=
  if opFamily op = 0x0 then decodeFamily0 op
  else if opFamily op = 0x1 then .instr (.jp (opNNN op))
  else if opFamily op = 0x2 then .instr (.call (opNNN op))
  else if opFamily op = 0x3 then .instr (.seImm (opX op) (opKK op))
  else if opFamily op = 0x4 then .instr (.sneImm (opX op) (opKK op))
  else if opFamily op = 0x5 then .instr (.seReg (opX op) (opY op))
  else if opFamily op = 0x6 then .instr (.ldImm (opX op) (opKK op))
  else if opFamily op = 0x7 then .instr (.addImm (opX op) (opKK op))
  else if opFamily op = 0x8 then decodeFamily8 op
  else if opFamily op = 0x9 then .instr (.sneReg (opX op) (opY op))
  else if opFamily op = 0xA then .instr (.ldI (opNNN op))
  else if opFamily op = 0xB then .instr (.jpV0 (opNNN op))
  else if opFamily op = 0xC then .instr (.rnd (opX op) (opKK op))
  else if opFamily op = 0xD then .instr (.drw (opX op) (opY op) (opN op))
  else if opFamily op = 0xE then decodeFamilyE op
  else decodeFamilyF op

/-- Two bytes of memory as an opcode: the byte at the lower address is bits 15..8 (R53, R55). -/
def wordOfBytes (hi lo : Byte) : Word := hi ++ lo

/-- The byte of an opcode that stands at the lower address (R53). -/
def highByte (op : Word) : Byte := op.extractLsb' 8 8

/-- The byte of an opcode that stands at the higher address (R53). -/
def lowByte (op : Word) : Byte := op.extractLsb' 0 8

/-- The decoder on an instruction's bytes in memory order. -/
def decodeBytes (hi lo : Byte) : Decoded := decodeWord (wordOfBytes hi lo)

/-! ## Encoding -/

/-- Format NNN (R71): `| fam | NNN |`. -/
def wordNNN (fam : Nibble) (nnn : Addr) : Word := fam ++ nnn

/-- Formats XKK and X (R71): `| fam | X | KK |`, the low byte of format X being its selector. -/
def wordXKK (fam x : Nibble) (kk : Byte) : Word := fam ++ x ++ kk

/-- Formats XY and XYN (R71): `| fam | X | Y | N |`, the low nibble of format XY being its selector or
ignored. -/
def wordXYN (fam x y n : Nibble) : Word := fam ++ x ++ y ++ n

/-- The canonical word of an instruction (R81, R85): the patterns of the opcode table with the operand
fields of R71 in place and every ignored bit 0, except that SHR and SHL carry the `Y` they are given. -/
def encode : Instr → Word
  | .cls => 0x00E0
  | .ret => 0x00EE
  | .jp nnn => wordNNN 0x1 nnn
  | .call nnn => wordNNN 0x2 nnn
  | .seImm x kk => wordXKK 0x3 x kk
  | .sneImm x kk => wordXKK 0x4 x kk
  | .seReg x y => wordXYN 0x5 x y 0x0
  | .ldImm x kk => wordXKK 0x6 x kk
  | .addImm x kk => wordXKK 0x7 x kk
  | .ldReg x y => wordXYN 0x8 x y 0x0
  | .orReg x y => wordXYN 0x8 x y 0x1
  | .andReg x y => wordXYN 0x8 x y 0x2
  | .xorReg x y => wordXYN 0x8 x y 0x3
  | .addReg x y => wordXYN 0x8 x y 0x4
  | .sub x y => wordXYN 0x8 x y 0x5
  | .shr x y => wordXYN 0x8 x y 0x6
  | .subn x y => wordXYN 0x8 x y 0x7
  | .shl x y => wordXYN 0x8 x y 0xE
  | .sneReg x y => wordXYN 0x9 x y 0x0
  | .ldI nnn => wordNNN 0xA nnn
  | .jpV0 nnn => wordNNN 0xB nnn
  | .rnd x kk => wordXKK 0xC x kk
  | .drw x y n => wordXYN 0xD x y n
  | .skp x => wordXKK 0xE x 0x9E
  | .sknp x => wordXKK 0xE x 0xA1
  | .ldVxDt x => wordXKK 0xF x 0x07
  | .ldVxK x => wordXKK 0xF x 0x0A
  | .ldDtVx x => wordXKK 0xF x 0x15
  | .ldStVx x => wordXKK 0xF x 0x18
  | .addIVx x => wordXKK 0xF x 0x1E
  | .ldFVx x => wordXKK 0xF x 0x29
  | .ldBVx x => wordXKK 0xF x 0x33
  | .ldMemVx x => wordXKK 0xF x 0x55
  | .ldVxMem x => wordXKK 0xF x 0x65

/-! ## The host's question about the opcode table -/

/-- The low `nbits` bits of a table word, as the instruction's one 16-bit word (every bit above is 0). -/
def tableWord (nbits w : Nat) : Word := BitVec.ofNat 16 (w % 2 ^ nbits)

/-- The instruction the decoder reads from a table word laid out in memory order; none for an unknown
opcode. -/
def decodeTableWord (nbits w : Nat) : Option Instr :=
  match decodeBytes (highByte (tableWord nbits w)) (lowByte (tableWord nbits w)) with
  | .instr i => some i
  | .unknown _ => none

end Sys2Proof
end

