-- ==== Sys2Proof/Machine/ControlFlow.lean ====
section
/-! DEFINITION. Return, jumps, call and skips (spec/40_control_flow.md). As in every family, `s` is the
state at the start of the cycle, so `s.pc` is `pc0`; each meaning makes the fetch advance itself before
its handler's work, and raises a fault from `s` (spec/30_encoding.md R77; log entry 9). -/

namespace Sys2Proof.Machine

/-- 00EE (R100): an empty stack is a no-op, and is not reported (D18, log entry 16). -/
def execRet (s : State) : Result :=
  match s.advance.top with
  | none => .next s.advance
  | some w => .next (s.advance.pop.setPc w)

/-- 1NNN (R101). -/
def execJp (nnn : Addr) (s : State) : Result := .next (s.advance.setPc (immWord nnn))

/-- 2NNN (R102, R103): the address pushed is the advanced pc. -/
def execCall (nnn : Addr) (s : State) : Result :=
  if s.sp = stackDepth then raise .stackOverflow (encode (.call nnn)) s
  else .next ((s.advance.push s.advance.pc).setPc (immWord nnn))

/-- BNNN (R104): the sum is not reduced to 12 bits. -/
def execJpV0 (nnn : Addr) (s : State) : Result :=
  .next (s.advance.setPc (immWord nnn + s.advance.wideV 0))

/-- 3XKK (R106). -/
def execSeImm (x : Nibble) (kk : Byte) (s : State) : Result :=
  .next (s.advance.skipIf (s.advance.getV x == kk))

/-- 4XKK (R107). -/
def execSneImm (x : Nibble) (kk : Byte) (s : State) : Result :=
  .next (s.advance.skipIf (s.advance.getV x != kk))

/-- 5XY0 (R108). -/
def execSeReg (x y : Nibble) (s : State) : Result :=
  .next (s.advance.skipIf (s.advance.getV x == s.advance.getV y))

/-- 9XY0 (R109). -/
def execSneReg (x y : Nibble) (s : State) : Result :=
  .next (s.advance.skipIf (s.advance.getV x != s.advance.getV y))

end Sys2Proof.Machine
end

