-- ==== Sys2Proof/Machine/Display.lean ====
section
/-! DEFINITION. Framebuffer clear and XOR sprite draw (spec/43_display.md). -/

namespace Sys2Proof.Machine

/-- 00E0 (R190): VF is unchanged. -/
def execCls (s : State) : Result := .next (s.advance.setFb Framebuffer.clear)

/-- DXYN (R191): the coordinates and `I` are sampled before VF is reset (D10, log entry 12), and VF is
the collision flag of this draw alone. -/
def execDrw (x y n : Nibble) (s : State) : Result :=
  if blockInBounds s.i n.toNat then
    let c := drawSprite ⟨s.fb, false⟩ (s.getV x).toNat (s.getV y).toNat
      (s.loadBytes s.i.toNat n.toNat)
    .next ((s.advance.setFb c.fb).setV vf (collisionFlag c.hit))
  else raise .memoryOutOfBounds (encode (.drw x y n)) s

end Sys2Proof.Machine
end

