-- ==== Sys2Proof/Machine/IndexMemory.lean ====
section
/-! DEFINITION. The index register and memory transfer (spec/42_index_memory.md). Bounds are checked
before any access, on exact addresses (spec/20_memory.md R54), and no load or store changes `I` (R166). -/

namespace Sys2Proof.Machine

/-- ANNN (R160). -/
def execLdI (nnn : Addr) (s : State) : Result := .next (s.advance.setI (immWord nnn))

/-- FX1E (R161): modulo 2^16, no flag, no fault. -/
def execAddIVx (x : Nibble) (s : State) : Result :=
  .next (s.advance.setI (s.advance.i + s.advance.wideV x))

/-- FX29 (R162). -/
def execLdFVx (x : Nibble) (s : State) : Result :=
  .next (s.advance.setI (s.advance.glyphAddress (s.advance.getV x)))

/-- FX33 (R163). -/
def execLdBVx (x : Nibble) (s : State) : Result :=
  if blockInBounds s.i 3 then .next (s.advance.storeBytes s.i.toNat (bcdDigits (s.advance.getV x)))
  else raise .memoryOutOfBounds (encode (.ldBVx x)) s

/-- FX55 (R164). -/
def execLdMemVx (x : Nibble) (s : State) : Result :=
  if blockInBounds s.i (x.toNat + 1) then
    .next (s.advance.storeBytes s.i.toNat (s.advance.regsUpTo x))
  else raise .memoryOutOfBounds (encode (.ldMemVx x)) s

/-- FX65 (R165). -/
def execLdVxMem (x : Nibble) (s : State) : Result :=
  if blockInBounds s.i (x.toNat + 1) then .next (s.advance.loadRegs s.i.toNat x.toNat)
  else raise .memoryOutOfBounds (encode (.ldVxMem x)) s

end Sys2Proof.Machine
end

