-- ==== Sys2Proof/Machine/KeypadTimers.lean ====
section
/-! DEFINITION. Keypad skips, the key wait and timer access (spec/44_timers_keypad.md). -/

namespace Sys2Proof.Machine

/-- EX9E (R211). -/
def execSkp (x : Nibble) (s : State) : Result :=
  .next (s.advance.skipIf (s.advance.keyDown (s.advance.getV x).toNat))

/-- EXA1 (R212). -/
def execSknp (x : Nibble) (s : State) : Result :=
  .next (s.advance.skipIf (!s.advance.keyDown (s.advance.getV x).toNat))

/-- FX07 (R214). -/
def execLdVxDt (x : Nibble) (s : State) : Result := .next (s.advance.setV x s.advance.dt)

/-- FX0A (R215): busy-poll. With no key pressed pc goes back to this instruction. -/
def execLdVxK (x : Nibble) (s : State) : Result :=
  match s.advance.lowestKey with
  | some k => .next (s.advance.setV x (BitVec.ofNat 8 k))
  | none => .next (s.advance.setPc (s.advance.pc - 2))

/-- FX15 (R216). -/
def execLdDtVx (x : Nibble) (s : State) : Result := .next (s.advance.setDt (s.advance.getV x))

/-- FX18 (R217). -/
def execLdStVx (x : Nibble) (s : State) : Result := .next (s.advance.setSt (s.advance.getV x))

end Sys2Proof.Machine
end

