-- ==== Sys2Proof/Machine/Cycle.lean ====
section
/-! DEFINITION. One fetch-decode-execute cycle (spec/30_encoding.md R76, R77, R80) and the frame of one
`tick` (spec/60_exceptions.md R270). -/

namespace Sys2Proof.Machine

/-- The opcode at pc: the bytes at pc and pc + 1, big-endian (R53). Read only where both exist (R76). -/
def State.fetchWord (s : State) : Word :=
  wordOfBytes (s.readByte s.pc.toNat) (s.readByte (s.pc.toNat + 1))

/-- Both bytes of the opcode at pc exist (R76; D30). -/
def State.canFetch (s : State) : Bool := decide (s.pc.toNat ≤ 0xFFE)

/-- `execute(Unknown, op)` (R80): a reported no-op, with the pc advanced past the word. -/
def execUnknown (op : Word) (s : State) : Result := .next (s.advance.report s.pc op)

/-- `execute(decode(op), op)` (R77, R78). -/
def execWord (op : Word) (s : State) : Result :=
  match decodeWord op with
  | .instr i => exec i s
  | .unknown _ => execUnknown op s

/-- `Cycle()` (R77), performed only when `run == Running` (R273); in any other run state nothing
happens (R244, R255). -/
def cycle (s : State) : Result :=
  if s.run = .running then
    if s.canFetch then execWord s.fetchWord s else raise .fetchOutOfBounds 0 s
  else .next s

/-- The rest of a tick with `n` cycles left: the cycles, then the one timer step; a fault ends the frame
with no timer step (R270; D8). -/
def runFrame : Nat → State → Result
  | 0, s => .next s.timerStep
  | n + 1, s =>
    match cycle s with
    | .next t => if t.run = .running then runFrame n t else .next t
    | .fault r => .fault r
    | .refused r => .refused r

/-- A tick of `n` cycles (R270): nothing when the core is not Running. -/
def tickOf (n : Nat) (s : State) : Result := if s.run = .running then runFrame n s else .next s

end Sys2Proof.Machine
end

