-- ==== Sys2Proof/Machine/Transactions.lean ====
section
/-! DEFINITION. The host's transactions (spec/60_exceptions.md R270 to R283): what each does to the state,
and what it returns to the host. Each is atomic, one at a time. -/

namespace Sys2Proof.Machine

/-! ## What a transaction does -/

/-- `load_font(offset)` (R274; D15, log entry 17): rejected when the font would not fit. -/
def State.loadFont (s : State) (offset : Nat) : State :=
  if offset > maxFontOffset then s
  else (s.storeBytes offset fontGlyphs).setFontBase (BitVec.ofNat 12 offset)

/-- `load_rom(bytes)` (R278; D19, log entry 17): rejected when the program would not fit. -/
def State.loadRom (s : State) (bytes : List Byte) : State :=
  if bytes.length > maxRomLength then s else s.storeBytes programBase bytes

/-- `start()` (R279, R255): Stopped to Running, nothing otherwise. -/
def State.start (s : State) : State := if s.run = .stopped then s.setRun .running else s

/-- `reset()` (R281): the reset state of R290. The model's own fields are not the core's, so they stay:
the draws taken stay taken, and the host's later transactions stay issued (log entry 22). -/
def State.resetCore (s : State) : State :=
  { State.reset with draws := s.draws, inbox := s.inbox, standing := s.standing }

/-- Perform one transaction. `tick` ignores `frame_delta` (R271; D27) and runs CYCLES_PER_FRAME cycles
(R270); the four reads change nothing (R276, R277, R280, R282). -/
def HostTx.perform (tx : HostTx) (s : State) : Result :=
  match tx with
  | .loadFont offset => .next (s.loadFont offset)
  | .setKeyState keyId pressed => .next (s.setKey keyId pressed)
  | .readFramebuffer => .next s
  | .isSoundActive => .next s
  | .loadRom bytes => .next (s.loadRom bytes)
  | .start => .next s.start
  | .isRunning => .next s
  | .reset => .next s.resetCore
  | .readStatus => .next s
  | .tick _ => tickOf Config.cyclesPerFrame s
  | .cycle => Sys2Proof.Machine.cycle s
  | .timerStep => .next s.timerStep

/-! ## What a transaction returns -/

/-- The block status of `read_status()` (R282). -/
structure Status where
  run         : RunState
  faultCause  : FaultCause
  faultPc     : Word
  faultOpcode : Word
  reports     : List Report
deriving DecidableEq, Repr

/-- The reply of a transaction. -/
inductive Reply where
  | done                        -- performed, nothing to return
  | rejected                    -- refused, and nothing was changed (R274, R278; log entry 24)
  | flag (b : Bool)             -- of `is_sound_active` and `is_running`
  | pixels (fb : Framebuffer)   -- of `read_framebuffer`
  | status (st : Status)        -- of `read_status`
deriving DecidableEq, Repr

/-- `read_framebuffer()` (R276). -/
def State.readFramebuffer (s : State) : Framebuffer := s.fb

/-- `is_sound_active()` (R277): `ST > 0`. -/
def State.isSoundActive (s : State) : Bool := decide (s.st.toNat > 0)

/-- `is_running()` (R280). -/
def State.isRunning (s : State) : Bool := decide (s.run = .running)

/-- `read_status()` (R282). -/
def State.readStatus (s : State) : Status := ⟨s.run, s.faultCause, s.faultPc, s.faultOpcode, s.reports⟩

/-- What the host gets back from a transaction issued in the state `s` (log entry 23, DESIGN CHOICE).
`set_key_state` with a key number of 16 and above gives back `rejected`: R275 and D26 say only that it is
ignored, and spec/93_implementation_defined.md item 20 calls it a refusal (log entry 24, DESIGN CHOICE). -/
def HostTx.reply (tx : HostTx) (s : State) : Reply :=
  match tx with
  | .loadFont offset => if offset > maxFontOffset then .rejected else .done
  | .setKeyState keyId _ => if keyId < 16 then .done else .rejected
  | .readFramebuffer => .pixels s.readFramebuffer
  | .isSoundActive => .flag s.isSoundActive
  | .loadRom bytes => if bytes.length > maxRomLength then .rejected else .done
  | .start => .done
  | .isRunning => .flag s.isRunning
  | .reset => .done
  | .readStatus => .status s.readStatus
  | .tick _ => .done
  | .cycle => .done
  | .timerStep => .done

/-! ## The next event of the machine -/

/-- The transaction the machine performs next: the oldest issued one, or, with none issued, the host's
standing one, if it has one (R283; log entry 1). -/
def State.pending (s : State) : Option HostTx := s.inbox.head?.or s.standing

/-- The oldest issued transaction is taken off the inbox; with none issued there is nothing to take. -/
def State.takeIssued (s : State) : State := { s with inbox := s.inbox.tail }

/-- The next event: the pending transaction, taken off the inbox. With none pending nothing happens,
because the core acts only in a transaction of the host (R19, R283; log entry 1). -/
def State.nextEvent (s : State) : Result :=
  match s.pending with
  | none => .next s
  | some tx => tx.perform s.takeIssued

/-- An opcode laid into memory at pc, big-endian (R53). -/
def State.placeWord (s : State) (op : Word) : State :=
  s.storeBytes s.pc.toNat [highByte op, lowByte op]

/-- A state whose very next event is a cycle that can fetch: Running, no host transaction waiting, a host
that issues `Cycle()` from then on, and the pc at the program's base if it was past the last fetch address
(log entry 19). -/
def State.readyToFetch (s : State) : State :=
  { s with run := .running, inbox := [], standing := some .cycle,
           pc := if s.canFetch then s.pc else BitVec.ofNat 16 programBase }

end Sys2Proof.Machine
end

