-- ==== Sys2Proof/Machine/Step.lean ====
section
/-! DEFINITION. The step: the machine's next event (Sys2Proof/Machine/Transactions.lean), and the state in
which that event is one given instruction. -/

namespace Sys2Proof.Machine

/-- One step: the host's next transaction, or nothing when the host issues none (log entry 1). -/
def step (s : State) : Host.Outcome State Fault Refusal := s.nextEvent

/-- `s` with one instruction of the opcode table placed where the next step fetches it (log entry 19). -/
def State.withFetchWord (s : State) (nbits w : Nat) : State :=
  s.readyToFetch.placeWord (tableWord nbits w)

end Sys2Proof.Machine
end

