-- ==== Sys2Proof/Safety.lean ====
section
/-! DEFINITION. The terms claims are stated in: what a step leaves untouched, and the invariant that
tells the states a run can reach from the ones it cannot (spec/10_state.md R25, R27, R33, R34;
spec/20_memory.md R50; spec/60_exceptions.md R242, R274). -/

namespace Sys2Proof.Machine

/-- The pieces of the state a claim can name: a register, a byte of memory, and each other field of
R39 (the fault record as one), and the model's own three fields. -/
inductive Piece where
  | v (x : Nibble)
  | i
  | pc
  | stack
  | dt
  | st
  | mem (a : Nat)
  | fb
  | key
  | run
  | fontBase
  | faultRecord
  | reports
  | draws
  | inbox
  | standing
deriving DecidableEq, Repr

/-- Every piece of the state outside `changed` is in `t` what it is in `s`: the frame of a step. -/
structure Untouched (changed : Piece → Prop) (s t : State) : Prop where
  v : ∀ x, ¬ changed (.v x) → t.getV x = s.getV x
  i : ¬ changed .i → t.i = s.i
  pc : ¬ changed .pc → t.pc = s.pc
  stack : ¬ changed .stack → t.stack = s.stack
  dt : ¬ changed .dt → t.dt = s.dt
  st : ¬ changed .st → t.st = s.st
  mem : ∀ a, ¬ changed (.mem a) → t.readByte a = s.readByte a
  fb : ¬ changed .fb → t.fb = s.fb
  key : ¬ changed .key → t.key = s.key
  run : ¬ changed .run → t.run = s.run
  fontBase : ¬ changed .fontBase → t.fontBase = s.fontBase
  faultRecord : ¬ changed .faultRecord →
    t.faultCause = s.faultCause ∧ t.faultPc = s.faultPc ∧ t.faultOpcode = s.faultOpcode
  reports : ¬ changed .reports → t.reports = s.reports
  draws : ¬ changed .draws → t.draws = s.draws
  inbox : ¬ changed .inbox → t.inbox = s.inbox
  standing : ¬ changed .standing → t.standing = s.standing

/-- The state that fault entry leaves (R242): the run is stopped, the record says why and where, and
nothing else differs from the state `s` at the start of the cycle (R243). -/
structure FaultedFrom (s : State) (c : FaultCause) (op : Word) (t : State) : Prop where
  run : t.run = .faulted
  cause : t.faultCause = c
  pc : t.faultPc = s.pc
  opcode : t.faultOpcode = op
  rest : Untouched (fun p => p = .run ∨ p = .faultRecord) s t

/-- The fault an instruction must raise in a state, by the list of R241: the addresses are exact sums
of numbers, and nothing else is a reason to fault. -/
def dueFault (s : State) : Instr → FaultCause
  | .call _ => if s.stack.length = 16 then .stackOverflow else .none
  | .drw _ _ n => if n.toNat > 0 ∧ s.i.toNat + n.toNat - 1 > 0xFFF then .memoryOutOfBounds else .none
  | .ldBVx _ => if s.i.toNat + 2 > 0xFFF then .memoryOutOfBounds else .none
  | .ldMemVx x => if s.i.toNat + x.toNat > 0xFFF then .memoryOutOfBounds else .none
  | .ldVxMem x => if s.i.toNat + x.toNat > 0xFFF then .memoryOutOfBounds else .none
  | .cls | .ret | .jp _ | .seImm _ _ | .sneImm _ _ | .seReg _ _ | .ldImm _ _ | .addImm _ _
  | .ldReg _ _ | .orReg _ _ | .andReg _ _ | .xorReg _ _ | .addReg _ _ | .sub _ _ | .shr _ _
  | .subn _ _ | .shl _ _ | .sneReg _ _ | .ldI _ | .jpV0 _ | .rnd _ _ | .skp _ | .sknp _ | .ldVxDt _
  | .ldVxK _ | .ldDtVx _ | .ldStVx _ | .addIVx _ | .ldFVx _ => .none

/-- The pieces of the state an instruction may write when it completes, by the rules of
spec/40_control_flow.md to spec/44_timers_keypad.md (R21, R22, R26 to R29, R37). -/
def mayWrite (s : State) : Instr → Piece → Prop
  | .cls, p => p = .pc ∨ p = .fb
  | .ret, p | .call _, p => p = .pc ∨ p = .stack
  | .jp _, p | .jpV0 _, p | .seImm _ _, p | .sneImm _ _, p | .seReg _ _, p | .sneReg _ _, p
  | .skp _, p | .sknp _, p => p = .pc
  | .ldImm x _, p | .addImm x _, p | .ldReg x _, p | .orReg x _, p | .andReg x _, p
  | .xorReg x _, p | .ldVxDt x, p | .ldVxK x, p => p = .pc ∨ p = .v x
  | .addReg x _, p | .sub x _, p | .shr x _, p | .subn x _, p | .shl x _, p =>
    p = .pc ∨ p = .v x ∨ p = .v 0xF
  | .rnd x _, p => p = .pc ∨ p = .v x ∨ p = .draws
  | .drw _ _ _, p => p = .pc ∨ p = .fb ∨ p = .v 0xF
  | .ldDtVx _, p => p = .pc ∨ p = .dt
  | .ldStVx _, p => p = .pc ∨ p = .st
  | .ldI _, p | .addIVx _, p | .ldFVx _, p => p = .pc ∨ p = .i
  | .ldBVx _, p => p = .pc ∨ ∃ k, k < 3 ∧ p = .mem (s.i.toNat + k)
  | .ldMemVx x, p => p = .pc ∨ ∃ k, k ≤ x.toNat ∧ p = .mem (s.i.toNat + k)
  | .ldVxMem x, p => p = .pc ∨ ∃ y : Nibble, y.toNat ≤ x.toNat ∧ p = .v y

/-- The sprite of `DRW Vx, Vy, n` has a set bit at the pixel `(px, py)`: bit `7 - col` of the byte at
`I + row`, at column `V[x] + col` and row `V[y] + row`, both wrapped (R191). -/
def spriteCovers (s : State) (x y n : Nibble) (px : Fin 64) (py : Fin 32) : Prop :=
  ∃ row col, row < n.toNat ∧ col < 8 ∧ (s.readByte (s.i.toNat + row)).getLsbD (7 - col) = true ∧
    px.val = ((s.getV x).toNat + col) % 64 ∧ py.val = ((s.getV y).toNat + row) % 32

/-- `n` direct `Cycle()` transactions, one after the other (R273). -/
def cycles : Nat → State → Result
  | 0, s => .next s
  | n + 1, s =>
    match cycle s with
    | .next t => cycles n t
    | .fault r => .fault r
    | .refused r => .refused r

/-- A safe state: no fault has stopped the run (R242, R244). -/
abbrev State.Safe (s : State) : Prop := s.run ≠ .faulted

/-- The invariant of the machine. Every host transaction and every cycle keeps it, and it holds after
reset. -/
structure State.Inv (s : State) : Prop where
  /-- Memory is in its canonical form. -/
  memory : s.mem.wf = true
  /-- The stack holds at most STACK_DEPTH entries (R27). -/
  stackBound : s.sp ≤ stackDepth
  /-- A return address is the address after a CALL that was fetched, at most 0x1000 (R76, R102). -/
  returns : ∀ w ∈ s.stack, w.toNat ≤ 0x1000
  /-- The largest pc any rule writes is 0x10FE (R25). -/
  pcBound : s.pc.toNat ≤ 0x10FE
  /-- The font stands inside memory (R274). -/
  fontFits : s.fontBase.toNat ≤ maxFontOffset
  /-- The core is Faulted exactly when a fault has been recorded since reset (R33, R241). -/
  faultRecorded : s.run = .faulted ↔ s.faultCause ≠ .none
  /-- Faults are precise: pc still holds the faulting instruction's address (R242). -/
  faultPrecise : s.faultCause ≠ .none → s.faultPc = s.pc
  /-- With no fault since reset, the record is the reset one (R33). -/
  faultClear : s.faultCause = .none → s.faultPc = 0 ∧ s.faultOpcode = 0
  /-- Every report is of an unknown opcode that was fetched (R247). -/
  reported : ∀ r ∈ s.reports, (∃ why, decodeWord r.opcode = .unknown why) ∧ r.pc.toNat ≤ 0xFFE

end Sys2Proof.Machine
end

