-- ==== Sys2Proof/Certificates/Slice0/Obligations.lean ====
section
/-! DEFINITION. The statements about the CHIP-8 core, in the spec's order. A statement about an
instruction says that `exec` ANSWERS a next state, what that state holds, and (`Untouched`) that
everything else is as before. Where a rule of the spec is its own decision (D<n>) or a convention of the
model (log entry <n>), the docstring says so. -/

open Sys2Proof Sys2Proof.Machine

/-! ## Encoding (spec/30_encoding.md) -/

/-- Decoding the encoding of an instruction gives it back, with every operand at every value. The
encoder is the canonical spelling of R81 and R85 (the spec's decisions D16, D24). -/
def Obligations.DecodeOfEncodeIsTheInstruction : Prop :=
  ∀ i : Instr, decodeWord (encode i) = .instr i

/-- R80: exactly these words are unknown opcodes, and running one is a reported no-op: pc goes past it,
one report is appended, nothing else changes. That bits 11:8 of family 0 are ignored and every 0NNN is
unknown are the spec's decisions D16 and D17 (R81, R83; log entry 15), the report and its log its decisions
D18 and D31 (R247; log entry 16). -/
def Obligations.UnknownOpcodesAreReportedNoOps : Prop :=
  (∀ op : Word, (∃ why, decodeWord op = .unknown why) ↔
    (op.toNat / 0x1000 = 0x0 ∧ op.toNat % 0x100 ≠ 0xE0 ∧ op.toNat % 0x100 ≠ 0xEE) ∨
    (op.toNat / 0x1000 = 0x8 ∧
      ((0x8 ≤ op.toNat % 0x10 ∧ op.toNat % 0x10 ≤ 0xD) ∨ op.toNat % 0x10 = 0xF)) ∨
    (op.toNat / 0x1000 = 0xE ∧ op.toNat % 0x100 ≠ 0x9E ∧ op.toNat % 0x100 ≠ 0xA1) ∨
    (op.toNat / 0x1000 = 0xF ∧
      op.toNat % 0x100 ∉ [0x07, 0x0A, 0x15, 0x18, 0x1E, 0x29, 0x33, 0x55, 0x65])) ∧
  (∀ (s : State) (why : UnknownOpcode), s.run = .running → s.pc.toNat ≤ 0xFFE →
    decodeWord s.fetchWord = .unknown why →
    ∃ t, cycle s = .next t ∧ t.pc = s.pc + 2 ∧
      t.reports = s.reports ++ [⟨.unknownOpcode, s.pc, s.fetchWord⟩] ∧
      Untouched (fun p => p = .pc ∨ p = .reports) s t)

/-- The decision tree of R74 and the opcode table say the same: a word is of a row exactly when it
decodes to an instruction of that row. So no two rows share a word. -/
def Obligations.DecoderAgreesWithOpcodeTable : Prop :=
  (∀ (r : Row) (op : Word), r ∈ opcodeTable →
    (r.matches op = true ↔ ∃ i, decodeWord op = .instr i ∧ i.row = r)) ∧
  (∀ op : Word, wellFormedWord op = true ↔ ∃ i, decodeWord op = .instr i)

/-- R81 (the spec's decision D16, log entry 15): the ignored bits make no difference. -/
def Obligations.IgnoredBitsMakeNoDifference : Prop :=
  (∀ n : Nibble, decodeWord (wordXKK 0x0 n 0xE0) = .instr .cls ∧
    decodeWord (wordXKK 0x0 n 0xEE) = .instr .ret) ∧
  (∀ x y n : Nibble, decodeWord (wordXYN 0x5 x y n) = .instr (.seReg x y) ∧
    decodeWord (wordXYN 0x9 x y n) = .instr (.sneReg x y)) ∧
  (∀ (x y y' : Nibble) (s : State), exec (.shr x y) s = exec (.shr x y') s ∧
    exec (.shl x y) s = exec (.shl x y') s)

/-- Words written out bit by bit from the patterns of R74, one of each family of the table. -/
def Obligations.SampleWordsDecodeAsTheTableSays : Prop :=
  decodeWord 0b0000000011100000 = .instr .cls ∧
  decodeWord 0b0010001000010000 = .instr (.call 0x210) ∧
  decodeWord 0b0011001101000010 = .instr (.seImm 0x3 0x42) ∧
  decodeWord 0b1000101001011110 = .instr (.shl 0xA 0x5) ∧
  decodeWord 0b1010001100000000 = .instr (.ldI 0x300) ∧
  decodeWord 0b1101000100100101 = .instr (.drw 0x1 0x2 0x5) ∧
  decodeWord 0b1110000110100001 = .instr (.sknp 0x1) ∧
  decodeWord 0b1111001101010101 = .instr (.ldMemVx 0x3)

/-! ## Fetch, the cycle and the step (spec/30_encoding.md, spec/20_memory.md) -/

/-- R53: the byte at pc is the high byte of the opcode and the byte at pc + 1 the low one, at an odd pc
too, and the first two bytes of a loaded program form the first opcode. -/
def Obligations.FetchIsBigEndianAtAnyPc : Prop :=
  (∀ s : State, s.fetchWord.toNat =
    (s.readByte s.pc.toNat).toNat * 256 + (s.readByte (s.pc.toNat + 1)).toNat) ∧
  (∀ (b0 b1 : Byte) (rest : List Byte), rest.length + 2 ≤ 0xE00 →
    (State.reset.loadRom (b0 :: b1 :: rest)).pc = 0x200 ∧
    (State.reset.loadRom (b0 :: b1 :: rest)).fetchWord.toNat = b0.toNat * 256 + b1.toNat)

/-- A step runs the decoded instruction: when the pending transaction is `Cycle()` (issued, or the host's
standing one with none issued; log entry 1), in the run state Running, with both bytes of the opcode in
memory, a step is `exec` of what the opcode decodes to. `exec` holds the fetch advance of pc (log entry 9);
the step adds only that an issued transaction is taken off the model's `inbox`. -/
def Obligations.StepRunsTheDecodedInstruction : Prop :=
  ∀ (s : State) (i : Instr), s.pending = some .cycle → s.run = .running → s.pc.toNat ≤ 0xFFE →
    decodeBytes (s.readByte s.pc.toNat) (s.readByte (s.pc.toNat + 1)) = .instr i →
    step s = exec i { s with inbox := s.inbox.tail } ∧ (s.inbox = [] → step s = exec i s)

/-- A step performs the host's next transaction: the oldest one issued, taken off the model's `inbox`;
with none issued the host's standing one; and with neither nothing happens (R19, R283; the two fields are
log entry 1). No transaction issues another. -/
def Obligations.StepPerformsTheIssuedTransaction : Prop :=
  (∀ (s : State) (tx : HostTx) (rest : List HostTx), s.inbox = tx :: rest →
    step s = tx.perform { s with inbox := rest } ∧
    ∀ t, step s = .next t → t.inbox = rest ∧ t.standing = s.standing) ∧
  (∀ (s : State) (tx : HostTx), s.inbox = [] → s.standing = some tx →
    step s = tx.perform s ∧ ∀ t, step s = .next t → t.inbox = [] ∧ t.standing = some tx) ∧
  (∀ s : State, s.inbox = [] → s.standing = none → step s = .next s)

/-- R76 (the spec's decisions D3, D30): a cycle that starts with pc > 0xFFE does not fetch and faults
with the opcode recorded as 0; at 0xFFE and below no fetch fault is raised. -/
def Obligations.FetchPastMemoryFaults : Prop :=
  (∀ s : State, s.run = .running → s.pc.toNat > 0xFFE →
    ∃ t, cycle s = .next t ∧ FaultedFrom s .fetchOutOfBounds 0 t) ∧
  (∀ s t : State, s.run = .running → s.pc.toNat ≤ 0xFFE → s.faultCause ≠ .fetchOutOfBounds →
    cycle s = .next t → t.faultCause ≠ .fetchOutOfBounds)

/-- Only in Running does a cycle or a tick do anything (R244, R270, R273; the spec's decisions D8, D23). -/
def Obligations.NothingExecutesUnlessRunning : Prop :=
  ∀ s : State, s.run ≠ .running →
    cycle s = .next s ∧ ∀ delta, (HostTx.tick delta).perform s = .next s

/-- Every instruction and every step, in every state, answers a next state (R82, R240; that a fault is a
next state is log entry 7). -/
def Obligations.EveryStepAnswersANextState : Prop :=
  (∀ (i : Instr) (s : State), ∃ t, exec i s = .next t) ∧ ∀ s : State, ∃ t, step s = .next t

/-! ## Memory (spec/20_memory.md) -/

/-- R51: a write sets its byte and has no other effect, and a read gives the byte. -/
def Obligations.ByteWriteSetsExactlyItsByte : Prop :=
  ∀ (s : State) (a : Nat) (b : Byte), a ≤ 0xFFF →
    (s.writeByte a b).readByte a = b ∧
    Untouched (fun p => p = .mem a) s (s.writeByte a b)

/-- R59: after reset every byte is 0 except the 80 bytes of the font at 0x000. Which bytes the font has is
PRESUMED (R61; the spec's decision D21, log entry 5). -/
def Obligations.ResetMemoryIsTheFontThenZeros : Prop :=
  fontGlyphs.length = 80 ∧
  ∀ a : Nat, a ≤ 0xFFF →
    State.reset.readByte a = if h : a < fontGlyphs.length then fontGlyphs[a] else 0

/-- R64 (and R295): what FX55, FX33 and `load_rom` store is what the very next fetch reads, whether the
fetched word lies in the stored bytes whole or with one byte only. The bounds are those of the spec's
decisions D3 and D19 (log entries 7 and 17). -/
def Obligations.StoredBytesAreFetchedNext : Prop :=
  (∀ (s t : State) (x : Nibble), s.i.toNat + x.toNat ≤ 0xFFF → exec (.ldMemVx x) s = .next t →
    ∀ y : Nibble, y.toNat ≤ x.toNat →
      (t.pc.toNat = s.i.toNat + y.toNat → highByte t.fetchWord = s.getV y) ∧
      (t.pc.toNat + 1 = s.i.toNat + y.toNat → lowByte t.fetchWord = s.getV y)) ∧
  (∀ (s t : State) (x : Nibble), s.i.toNat + 2 ≤ 0xFFF → exec (.ldBVx x) s = .next t →
    ∀ k digit : Nat, (k, digit) ∈ [(0, (s.getV x).toNat / 100), (1, (s.getV x).toNat / 10 % 10),
        (2, (s.getV x).toNat % 10)] →
      (t.pc.toNat = s.i.toNat + k → (highByte t.fetchWord).toNat = digit) ∧
      (t.pc.toNat + 1 = s.i.toNat + k → (lowByte t.fetchWord).toNat = digit)) ∧
  (∀ (s : State) (bytes : List Byte) (k : Nat) (hk : k < bytes.length), bytes.length ≤ 0xE00 →
    (s.pc.toNat = 0x200 + k → highByte (s.loadRom bytes).fetchWord = bytes[k]) ∧
    (s.pc.toNat + 1 = 0x200 + k → lowByte (s.loadRom bytes).fetchWord = bytes[k]))

/-! ## Control flow (spec/40_control_flow.md) -/

/-- R100 (not reporting the empty stack is the spec's decision D18): the last return address is popped
into pc; on an empty stack only the fetch advance happens. -/
def Obligations.ReturnPopsTheStackIntoPc : Prop :=
  (∀ (s : State) (below : List Word) (w : Word), s.stack = below ++ [w] →
    ∃ t, exec .ret s = .next t ∧ t.pc = w ∧ t.stack = below ∧
      Untouched (fun p => p = .pc ∨ p = .stack) s t) ∧
  (∀ s : State, s.stack = [] →
    ∃ t, exec .ret s = .next t ∧ t.pc = s.pc + 2 ∧ Untouched (fun p => p = .pc) s t)

/-- R101: `pc <- zext_16(NNN)`. -/
def Obligations.JumpSetsPcToItsAddress : Prop :=
  ∀ (s : State) (nnn : Addr), ∃ t, exec (.jp nnn) s = .next t ∧ t.pc.toNat = nnn.toNat ∧
    Untouched (fun p => p = .pc) s t

/-- R102: with fewer than STACK_DEPTH = 16 entries held (R7; the spec's decision D5, log entry 3) a call
pushes the advanced pc and jumps. -/
def Obligations.CallPushesTheAdvancedPc : Prop :=
  ∀ (s : State) (nnn : Addr), s.stack.length < 16 →
    ∃ t, exec (.call nnn) s = .next t ∧ t.stack = s.stack ++ [s.pc + 2] ∧ t.pc.toNat = nnn.toNat ∧
      Untouched (fun p => p = .pc ∨ p = .stack) s t

/-- R103 (the spec's decisions D3, D5; log entries 3 and 7): a call on a full stack faults and changes
nothing but the run state and the fault record. -/
def Obligations.CallOnAFullStackFaults : Prop :=
  ∀ (s : State) (nnn : Addr), s.stack.length = 16 →
    ∃ t, exec (.call nnn) s = .next t ∧ FaultedFrom s .stackOverflow (encode (.call nnn)) t

/-- R102, the source's sentence on `2NNN` then `00EE` (the depth 16 is the spec's decision D5, log
entry 3): a return, run in any state that still has the
stack the call left, goes to the word after the call and gives back the stack. -/
def Obligations.ReturnGoesBackBehindTheCall : Prop :=
  ∀ (s u : State) (nnn : Addr), s.stack.length < 16 →
    ∃ t, exec (.call nnn) s = .next t ∧
      (u.stack = t.stack → ∃ w, exec .ret u = .next w ∧ w.pc = s.pc + 2 ∧ w.stack = s.stack)

/-- R104 (faulting only at the next fetch is the spec's decisions D3, D30): `pc <- NNN + V[0]`, the
exact sum. -/
def Obligations.JumpWithOffsetAddsV0Exactly : Prop :=
  ∀ (s : State) (nnn : Addr), ∃ t, exec (.jpV0 nnn) s = .next t ∧
    t.pc.toNat = nnn.toNat + (s.getV 0).toNat ∧ Untouched (fun p => p = .pc) s t

/-- R105, R106, R107: the skips on an immediate. -/
def Obligations.ImmediateSkipsStepOverTwoBytes : Prop :=
  ∀ (s : State) (x : Nibble) (kk : Byte),
    (∃ t, exec (.seImm x kk) s = .next t ∧
      t.pc = (if s.getV x = kk then s.pc + 2 + 2 else s.pc + 2) ∧ Untouched (fun p => p = .pc) s t) ∧
    (∃ t, exec (.sneImm x kk) s = .next t ∧
      t.pc = (if s.getV x ≠ kk then s.pc + 2 + 2 else s.pc + 2) ∧ Untouched (fun p => p = .pc) s t)

/-- R108, R109: the skips on two registers. With X = Y the first always skips and the second never. -/
def Obligations.RegisterSkipsCompareTwoRegisters : Prop :=
  ∀ (s : State) (x y : Nibble),
    (∃ t, exec (.seReg x y) s = .next t ∧
      t.pc = (if s.getV x = s.getV y then s.pc + 2 + 2 else s.pc + 2) ∧
      Untouched (fun p => p = .pc) s t) ∧
    (∃ t, exec (.sneReg x y) s = .next t ∧
      t.pc = (if s.getV x ≠ s.getV y then s.pc + 2 + 2 else s.pc + 2) ∧
      Untouched (fun p => p = .pc) s t) ∧
    (∃ t u, exec (.seReg x x) s = .next t ∧ t.pc = s.pc + 2 + 2 ∧
      exec (.sneReg x x) s = .next u ∧ u.pc = s.pc + 2)

/-! ## Register loads and the ALU (spec/41_register_alu.md) -/

/-- R132, R133, R134: the load of an immediate, the copy, and the add of an immediate modulo 256. None
writes VF unless it is the named destination. -/
def Obligations.LoadsAndImmediateAddWriteOneRegister : Prop :=
  ∀ (s : State) (x y : Nibble) (kk : Byte),
    (∃ t, exec (.ldImm x kk) s = .next t ∧ t.getV x = kk ∧ t.pc = s.pc + 2 ∧
      Untouched (fun p => p = .pc ∨ p = .v x) s t) ∧
    (∃ t, exec (.addImm x kk) s = .next t ∧
      (t.getV x).toNat = ((s.getV x).toNat + kk.toNat) % 256 ∧ t.pc = s.pc + 2 ∧
      Untouched (fun p => p = .pc ∨ p = .v x) s t) ∧
    (∃ t, exec (.ldReg x y) s = .next t ∧ t.getV x = s.getV y ∧ t.pc = s.pc + 2 ∧
      Untouched (fun p => p = .pc ∨ p = .v x) s t)

/-- R135, R136, R137: bitwise OR, AND and XOR, bit by bit, with VF not cleared. -/
def Obligations.BitwiseLogicLeavesVFAlone : Prop :=
  ∀ (s : State) (x y : Nibble),
    (∃ t, exec (.orReg x y) s = .next t ∧
      (∀ b, (t.getV x).getLsbD b = ((s.getV x).getLsbD b || (s.getV y).getLsbD b)) ∧
      t.pc = s.pc + 2 ∧ Untouched (fun p => p = .pc ∨ p = .v x) s t) ∧
    (∃ t, exec (.andReg x y) s = .next t ∧
      (∀ b, (t.getV x).getLsbD b = ((s.getV x).getLsbD b && (s.getV y).getLsbD b)) ∧
      t.pc = s.pc + 2 ∧ Untouched (fun p => p = .pc ∨ p = .v x) s t) ∧
    (∃ t, exec (.xorReg x y) s = .next t ∧
      (∀ b, (t.getV x).getLsbD b = ((s.getV x).getLsbD b ^^ (s.getV y).getLsbD b)) ∧
      t.pc = s.pc + 2 ∧ Untouched (fun p => p = .pc ∨ p = .v x) s t)

/-- R138, with the write order of R131 (the spec's decision D9, log entry 11): `V[X]` gets the sum of the
old values modulo 256, X = F included, and VF the carry when X is not F. -/
def Obligations.AddSetsVFToTheCarry : Prop :=
  ∀ (s : State) (x y : Nibble), ∃ t, exec (.addReg x y) s = .next t ∧
    (t.getV x).toNat = ((s.getV x).toNat + (s.getV y).toNat) % 256 ∧
    (x ≠ 0xF → (t.getV 0xF).toNat = if (s.getV x).toNat + (s.getV y).toNat > 255 then 1 else 0) ∧
    t.pc = s.pc + 2 ∧ Untouched (fun p => p = .pc ∨ p = .v x ∨ p = .v 0xF) s t

/-- R139, R141, with the write order of R131 (the spec's decision D9, log entry 11): the flag `f` is
written first, and an operand that is VF is then the flag; the result is the difference modulo 256, and
VF keeps the flag when X is not F. -/
def Obligations.SubtractSetsVFToNoBorrow : Prop :=
  ∀ (s : State) (x y : Nibble),
    (∃ (t : State) (f : Nat), exec (.sub x y) s = .next t ∧
      f = (if (s.getV x).toNat ≥ (s.getV y).toNat then 1 else 0) ∧
      ((t.getV x).toNat : Int) =
        ((if x = 0xF then (f : Int) else (s.getV x).toNat) -
          (if y = 0xF then (f : Int) else (s.getV y).toNat)) % 256 ∧
      (x ≠ 0xF → (t.getV 0xF).toNat = f) ∧
      t.pc = s.pc + 2 ∧ Untouched (fun p => p = .pc ∨ p = .v x ∨ p = .v 0xF) s t) ∧
    (∃ (t : State) (f : Nat), exec (.subn x y) s = .next t ∧
      f = (if (s.getV y).toNat ≥ (s.getV x).toNat then 1 else 0) ∧
      ((t.getV x).toNat : Int) =
        ((if y = 0xF then (f : Int) else (s.getV y).toNat) -
          (if x = 0xF then (f : Int) else (s.getV x).toNat)) % 256 ∧
      (x ≠ 0xF → (t.getV 0xF).toNat = f) ∧
      t.pc = s.pc + 2 ∧ Untouched (fun p => p = .pc ∨ p = .v x ∨ p = .v 0xF) s t)

/-- R140, R142, with the write order of R131 (the spec's decision D9, log entry 11): the bit shifted out
goes to VF, and with X = F it is the flag that is then shifted, so VF ends 0 after a right shift and 0 or
2 after a left shift. -/
def Obligations.ShiftsMoveTheBitOutToVF : Prop :=
  ∀ (s : State) (x y : Nibble),
    (∃ t, exec (.shr x y) s = .next t ∧
      (x ≠ 0xF → (t.getV x).toNat = (s.getV x).toNat / 2 ∧
        (t.getV 0xF).toNat = (s.getV x).toNat % 2) ∧
      (x = 0xF → (t.getV 0xF).toNat = 0) ∧
      t.pc = s.pc + 2 ∧ Untouched (fun p => p = .pc ∨ p = .v x ∨ p = .v 0xF) s t) ∧
    (∃ t, exec (.shl x y) s = .next t ∧
      (x ≠ 0xF → (t.getV x).toNat = (s.getV x).toNat * 2 % 256 ∧
        (t.getV 0xF).toNat = (s.getV x).toNat / 128) ∧
      (x = 0xF → (t.getV 0xF).toNat = (s.getV x).toNat / 128 * 2) ∧
      t.pc = s.pc + 2 ∧ Untouched (fun p => p = .pc ∨ p = .v x ∨ p = .v 0xF) s t)

/-- R143 (the spec's decision D22; the draw is the free value of log entry 2): the result is the draw
masked by KK, so it has no bit that KK lacks, and the next draw is a new one. Nothing is said of the
draw's value. -/
def Obligations.RandomByteIsMaskedByItsImmediate : Prop :=
  ∀ (s : State) (x : Nibble) (kk : Byte), ∃ t r, exec (.rnd x kk) s = .next t ∧
    r = Config.randomByte s.draws ∧ t.draws = s.draws + 1 ∧
    (∀ b, (t.getV x).getLsbD b = (r.getLsbD b && kk.getLsbD b)) ∧
    (kk = 0 → t.getV x = 0) ∧ t.pc = s.pc + 2 ∧
    Untouched (fun p => p = .pc ∨ p = .v x ∨ p = .draws) s t

/-! ## The index register and memory transfer (spec/42_index_memory.md) -/

/-- R160, R162: `I <- zext_16(NNN)`, and the glyph address of the whole of `V[X]`, not masked. That I holds
a sum above 0xFFF unmasked is the spec's decision D14 (R26; log entry 14), and FONT_BASE as the base its
decision D15 (R32; log entry 17). -/
def Obligations.IndexLoadsSetIToTheAddress : Prop :=
  ∀ (s : State) (x : Nibble) (nnn : Addr),
    (∃ t, exec (.ldI nnn) s = .next t ∧ t.i.toNat = nnn.toNat ∧ t.pc = s.pc + 2 ∧
      Untouched (fun p => p = .pc ∨ p = .i) s t) ∧
    (∃ t, exec (.ldFVx x) s = .next t ∧
      t.i.toNat = (s.fontBase.toNat + (s.getV x).toNat * 5) % 2 ^ 16 ∧ t.pc = s.pc + 2 ∧
      Untouched (fun p => p = .pc ∨ p = .i) s t)

/-- R161 (keeping a sum above 0xFFF is the spec's decision D14): `I <- (I + V[X]) mod 2^16`, no flag. -/
def Obligations.IndexAddIsModulo65536WithNoFlag : Prop :=
  ∀ (s : State) (x : Nibble), ∃ t, exec (.addIVx x) s = .next t ∧
    t.i.toNat = (s.i.toNat + (s.getV x).toNat) % 2 ^ 16 ∧ t.pc = s.pc + 2 ∧
    Untouched (fun p => p = .pc ∨ p = .i) s t

/-- R163 (the fault is the spec's decision D3, log entry 7): the hundreds, tens and units digits go to I,
I + 1 and I + 2; with I + 2 > 0xFFF the instruction faults and writes no byte. -/
def Obligations.DecimalDigitsAreStoredAtI : Prop :=
  ∀ (s : State) (x : Nibble),
    (s.i.toNat + 2 ≤ 0xFFF → ∃ t, exec (.ldBVx x) s = .next t ∧
      (t.readByte s.i.toNat).toNat = (s.getV x).toNat / 100 ∧
      (t.readByte (s.i.toNat + 1)).toNat = (s.getV x).toNat / 10 % 10 ∧
      (t.readByte (s.i.toNat + 2)).toNat = (s.getV x).toNat % 10 ∧ t.pc = s.pc + 2 ∧
      Untouched (fun p => p = .pc ∨ ∃ k, k < 3 ∧ p = .mem (s.i.toNat + k)) s t) ∧
    (s.i.toNat + 2 > 0xFFF → ∃ t, exec (.ldBVx x) s = .next t ∧
      FaultedFrom s .memoryOutOfBounds (encode (.ldBVx x)) t)

/-- R164 (I unchanged is the spec's decision D13): `V[0] .. V[X]` go to I .. I + X and no other byte
changes; past 0xFFF the instruction faults and writes no byte. -/
def Obligations.RegistersAreStoredFromI : Prop :=
  ∀ (s : State) (x : Nibble),
    (s.i.toNat + x.toNat ≤ 0xFFF → ∃ t, exec (.ldMemVx x) s = .next t ∧
      (∀ y : Nibble, y.toNat ≤ x.toNat → t.readByte (s.i.toNat + y.toNat) = s.getV y) ∧
      t.pc = s.pc + 2 ∧
      Untouched (fun p => p = .pc ∨ ∃ k, k ≤ x.toNat ∧ p = .mem (s.i.toNat + k)) s t) ∧
    (s.i.toNat + x.toNat > 0xFFF → ∃ t, exec (.ldMemVx x) s = .next t ∧
      FaultedFrom s .memoryOutOfBounds (encode (.ldMemVx x)) t)

/-- R165 (I unchanged is the spec's decision D13): `V[0] .. V[X]` get the bytes at I .. I + X, VF among
them for X = F; past 0xFFF the instruction faults and writes no register. -/
def Obligations.RegistersAreLoadedFromI : Prop :=
  ∀ (s : State) (x : Nibble),
    (s.i.toNat + x.toNat ≤ 0xFFF → ∃ t, exec (.ldVxMem x) s = .next t ∧
      (∀ y : Nibble, y.toNat ≤ x.toNat → t.getV y = s.readByte (s.i.toNat + y.toNat)) ∧
      t.pc = s.pc + 2 ∧
      Untouched (fun p => p = .pc ∨ ∃ y : Nibble, y.toNat ≤ x.toNat ∧ p = .v y) s t) ∧
    (s.i.toNat + x.toNat > 0xFFF → ∃ t, exec (.ldVxMem x) s = .next t ∧
      FaultedFrom s .memoryOutOfBounds (encode (.ldVxMem x)) t)

/-- R165, the source's property: loading back what FX55 stored restores `V[0] .. V[X]`, from any state
with the memory and the I the store left, whatever its registers hold. That the store leaves I is the
spec's decision D13 (log entry 14), the bound its decision D3. -/
def Obligations.LoadBackRestoresTheStoredRegisters : Prop :=
  ∀ (s t u : State) (x : Nibble), s.i.toNat + x.toNat ≤ 0xFFF → exec (.ldMemVx x) s = .next t →
    u.i = t.i → (∀ a, u.readByte a = t.readByte a) →
    ∃ w, exec (.ldVxMem x) u = .next w ∧ ∀ y : Nibble, y.toNat ≤ x.toNat → w.getV y = s.getV y

/-! ## The display (spec/43_display.md) -/

/-- R190: every pixel is 0 afterwards, and VF is unchanged. -/
def Obligations.ClearTurnsEveryPixelOff : Prop :=
  ∀ s : State, ∃ t, exec .cls s = .next t ∧ (∀ px py, t.fb.pixel px py = false) ∧
    t.pc = s.pc + 2 ∧ Untouched (fun p => p = .pc ∨ p = .fb) s t

/-- R191, R192 (sampling the coordinates first is the spec's decision D10, N = 0 its decision D11; log
entry 12): a pixel is toggled exactly when the sprite covers it, and VF is 1 exactly when a covered pixel
was on. -/
def Obligations.DrawTogglesExactlyTheCoveredPixels : Prop :=
  ∀ (s : State) (x y n : Nibble), n = 0 ∨ s.i.toNat + n.toNat - 1 ≤ 0xFFF →
    ∃ t, exec (.drw x y n) s = .next t ∧
      (∀ px py, t.fb.pixel px py ≠ s.fb.pixel px py ↔ spriteCovers s x y n px py) ∧
      (t.getV 0xF = 1 ↔ ∃ px py, spriteCovers s x y n px py ∧ s.fb.pixel px py = true) ∧
      (t.getV 0xF = 0 ∨ t.getV 0xF = 1) ∧ t.pc = s.pc + 2 ∧
      Untouched (fun p => p = .pc ∨ p = .fb ∨ p = .v 0xF) s t

/-- R191 (the fault is the spec's decision D3): a sprite that does not lie in memory faults, and no pixel
and no register changes. -/
def Obligations.DrawPastMemoryFaults : Prop :=
  ∀ (s : State) (x y n : Nibble), n ≠ 0 → s.i.toNat + n.toNat - 1 > 0xFFF →
    ∃ t, exec (.drw x y n) s = .next t ∧ FaultedFrom s .memoryOutOfBounds (encode (.drw x y n)) t

/-- R193 (derived by the spec from R191 and R192): two draws of one sprite at one place, with X and Y
not F and nothing else done to the framebuffer, leave it as it was, and the second reports a collision
exactly when the first turned a pixel on. `u` is any state with the first draw's framebuffer and the
same operands, so any instructions may stand between the two. -/
def Obligations.DrawingTwiceRestoresTheFramebuffer : Prop :=
  ∀ (s t u : State) (x y n : Nibble), x ≠ 0xF → y ≠ 0xF →
    n = 0 ∨ s.i.toNat + n.toNat - 1 ≤ 0xFFF → exec (.drw x y n) s = .next t →
    u.fb = t.fb → u.i = s.i → u.getV x = s.getV x → u.getV y = s.getV y →
    (∀ k, k < n.toNat → u.readByte (s.i.toNat + k) = s.readByte (s.i.toNat + k)) →
    ∃ w, exec (.drw x y n) u = .next w ∧ w.fb = s.fb ∧
      (w.getV 0xF = 1 ↔ ∃ px py, s.fb.pixel px py = false ∧ t.fb.pixel px py = true)

/-! ## The keypad and the timers (spec/44_timers_keypad.md, spec/60_exceptions.md) -/

/-- R211, R212, with R210 (key numbers of 16 and above read not pressed: the spec's decision D12, log
entry 13). -/
def Obligations.KeySkipsReadTheNamedKey : Prop :=
  ∀ (s : State) (x : Nibble),
    (∃ t, exec (.skp x) s = .next t ∧
      t.pc = (if ∃ h : (s.getV x).toNat < 16, s.key[(s.getV x).toNat] = true
        then s.pc + 2 + 2 else s.pc + 2) ∧ Untouched (fun p => p = .pc) s t) ∧
    (∃ t, exec (.sknp x) s = .next t ∧
      t.pc = (if ∃ h : (s.getV x).toNat < 16, s.key[(s.getV x).toNat] = true
        then s.pc + 2 else s.pc + 2 + 2) ∧ Untouched (fun p => p = .pc) s t)

/-- R215 (busy-poll with the lowest key is the spec's decision D6, log entry 10): with a key pressed,
V[X] gets the lowest pressed key and pc goes on; with none, only pc is written, back to this
instruction. -/
def Obligations.KeyWaitTakesTheLowestKeyOrRepeats : Prop :=
  ∀ (s : State) (x : Nibble),
    (∀ (k : Nat) (hk : k < 16), s.key[k] = true →
      (∀ (j : Nat) (hj : j < 16), s.key[j] = true → k ≤ j) →
      ∃ t, exec (.ldVxK x) s = .next t ∧ (t.getV x).toNat = k ∧ t.pc = s.pc + 2 ∧
        Untouched (fun p => p = .pc ∨ p = .v x) s t) ∧
    ((∀ (k : Nat) (hk : k < 16), s.key[k] = false) →
      ∃ t, exec (.ldVxK x) s = .next t ∧ Untouched (fun _ => False) s t)

/-- R214, R216: the delay timer is read and set. -/
def Obligations.DelayTimerIsReadAndSet : Prop :=
  ∀ (s : State) (x : Nibble),
    (∃ t, exec (.ldVxDt x) s = .next t ∧ t.getV x = s.dt ∧ t.pc = s.pc + 2 ∧
      Untouched (fun p => p = .pc ∨ p = .v x) s t) ∧
    (∃ t, exec (.ldDtVx x) s = .next t ∧ t.dt = s.getV x ∧ t.pc = s.pc + 2 ∧
      Untouched (fun p => p = .pc ∨ p = .dt) s t)

/-- R217, R277: the sound timer is set, and the host, asking in that state (log entry 23), sees sound
active exactly when V[X] was not 0. -/
def Obligations.SoundTimerIsSetAndHeard : Prop :=
  ∀ (s : State) (x : Nibble), ∃ t, exec (.ldStVx x) s = .next t ∧ t.st = s.getV x ∧
    (HostTx.isSoundActive.reply t = .flag true ↔ (s.getV x).toNat > 0) ∧ t.pc = s.pc + 2 ∧
    Untouched (fun p => p = .pc ∨ p = .st) s t

/-- R262: each timer counts down by one, independently, and never goes below 0, over any number of timer
steps; nothing else changes. -/
def Obligations.TimerStepsCountDownToZero : Prop :=
  ∀ (n : Nat) (s : State),
    ((State.timerStep^[n] s).dt.toNat = s.dt.toNat - n) ∧
    ((State.timerStep^[n] s).st.toNat = s.st.toNat - n) ∧
    Untouched (fun p => p = .dt ∨ p = .st) s (State.timerStep^[n] s)

/-- R270 (cycles first, and no timer step after a fault: the spec's decisions D7, D8; CYCLES_PER_FRAME is
the open constant of log entry 4, here any number): a tick is its cycles and then one timer step, which
is left out when a cycle faulted. On their own, `Cycle()` and `TimerStep()` are transactions that do one
cycle, and one timer step in any run state (R273; the spec's decision D29, log entry 21). -/
def Obligations.TickIsItsCyclesThenOneTimerStep : Prop :=
  (∀ (n : Nat) (s u : State), s.run = .running → cycles n s = .next u →
    tickOf n s = .next (if u.run = .running then u.timerStep else u)) ∧
  (∀ (delta : Nat) (s : State), (HostTx.tick delta).perform s = tickOf Config.cyclesPerFrame s) ∧
  (∀ s : State, HostTx.cycle.perform s = cycle s ∧ HostTx.timerStep.perform s = .next s.timerStep)

/-- R213 (derived by the spec): the keypad is the same for every cycle of a tick, however many cycles it
has; nor does a tick change FONT_BASE (R32) or the host's issued transactions. -/
def Obligations.KeypadIsConstantThroughATick : Prop :=
  ∀ (n m : Nat) (s t u : State), tickOf n s = .next t → m ≤ n → cycles m s = .next u →
    t.key = s.key ∧ u.key = s.key ∧ t.fontBase = s.fontBase ∧ t.inbox = s.inbox ∧
    t.standing = s.standing

/-! ## Faults and the run state (spec/60_exceptions.md) -/

/-- R242 (faulting and its atomicity are the spec's decisions D3, D4 and D30; log entry 7): a cycle that
ends in Faulted has changed the run state and the fault record and nothing else,
pc still holds the faulting instruction's address, and the record names the cause, that address and the
opcode fetched there, or 0 where none was. -/
def Obligations.FaultsArePreciseAndWriteOnlyTheRecord : Prop :=
  ∀ s t : State, s.run = .running → cycle s = .next t → t.run = .faulted →
    t.faultCause ≠ .none ∧ t.faultPc = s.pc ∧
    t.faultOpcode = (if t.faultCause = .fetchOutOfBounds then 0 else s.fetchWord) ∧
    (t.faultCause = .fetchOutOfBounds ↔ s.pc.toNat > 0xFFE) ∧
    Untouched (fun p => p = .run ∨ p = .faultRecord) s t

/-- R241 (the policy is the spec's decision D3): an instruction faults exactly when the list of R241 says
so, with the cause it says (`dueFault`); with no fault due it changes neither the run state nor the
fault record. -/
def Obligations.InstructionsFaultExactlyWhenDue : Prop :=
  ∀ (i : Instr) (s : State), ∃ t, exec i s = .next t ∧
    (dueFault s i ≠ .none → FaultedFrom s (dueFault s i) (encode i) t) ∧
    (dueFault s i = .none →
      t.run = s.run ∧ t.faultCause = s.faultCause ∧ t.faultPc = s.faultPc ∧
        t.faultOpcode = s.faultOpcode)

/-- R21, R26 to R29, R37: the frame of the whole instruction set. An instruction with no fault due writes
only the pieces its rule names (`mayWrite`). That I stays in FX55 and FX65 is the spec's decision D13,
and when a fault is due its decision D3 (log entries 7 and 14). -/
def Obligations.InstructionsWriteOnlyTheirOwnPieces : Prop :=
  ∀ (i : Instr) (s t : State), dueFault s i = .none → exec i s = .next t →
    Untouched (mayWrite s i) s t

/-- R255 (the spec's decisions D6, D23): the only changes of the run state are `start` from Stopped, a
fault taken from Running in a cycle or a tick, with its cause on record, and `reset`. -/
def Obligations.RunStateChangesOnlyAsListed : Prop :=
  ∀ s t : State, step s = .next t → t.run ≠ s.run →
    (s.run = .stopped ∧ t.run = .running ∧ s.pending = some .start) ∨
    (s.run = .running ∧ t.run = .faulted ∧ t.faultCause ≠ .none ∧
      (s.pending = some .cycle ∨ ∃ delta, s.pending = some (.tick delta))) ∨
    (t.run = .stopped ∧ s.pending = some .reset)

/-! ## Host transactions (spec/60_exceptions.md) -/

/-- R274, R278 (rejecting is the spec's decisions D15, D19; log entry 17): `load_font` writes the 80
bytes and FONT_BASE, `load_rom` writes the bytes from 0x200, and one that would not fit is rejected and
changes nothing. -/
def Obligations.LoadsWriteTheirBytesOrAreRejected : Prop :=
  (∀ (s : State) (offset : Nat), offset ≤ 0xFB0 →
    ∃ t, (HostTx.loadFont offset).perform s = .next t ∧
      (HostTx.loadFont offset).reply s = .done ∧ t.fontBase.toNat = offset ∧
      (∀ (k : Nat) (hk : k < fontGlyphs.length), t.readByte (offset + k) = fontGlyphs[k]) ∧
      Untouched (fun p => p = .fontBase ∨ ∃ k, k < 80 ∧ p = .mem (offset + k)) s t) ∧
  (∀ (s : State) (offset : Nat), offset > 0xFB0 →
    (HostTx.loadFont offset).perform s = .next s ∧ (HostTx.loadFont offset).reply s = .rejected) ∧
  (∀ (s : State) (bytes : List Byte), bytes.length ≤ 0xE00 →
    ∃ t, (HostTx.loadRom bytes).perform s = .next t ∧ (HostTx.loadRom bytes).reply s = .done ∧
      (∀ (k : Nat) (hk : k < bytes.length), t.readByte (0x200 + k) = bytes[k]) ∧
      Untouched (fun p => ∃ k, k < bytes.length ∧ p = .mem (0x200 + k)) s t) ∧
  (∀ (s : State) (bytes : List Byte), bytes.length > 0xE00 →
    (HostTx.loadRom bytes).perform s = .next s ∧ (HostTx.loadRom bytes).reply s = .rejected)

/-- R275 (ignoring a key number of 16 and above is the spec's decision D26): `set_key_state` sets one key
and nothing else. -/
def Obligations.SetKeyStateSetsOneKey : Prop :=
  ∀ (s : State) (k : Nat) (pressed : Bool), ∃ t,
    (HostTx.setKeyState k pressed).perform s = .next t ∧
    (∀ (j : Nat) (hj : j < 16), t.key[j] = if j = k then pressed else s.key[j]) ∧
    Untouched (fun p => p = .key) s t

/-- R279, R281, R255 (`reset` as a transaction is the spec's decision D23): `start` moves Stopped to
Running and does nothing otherwise; `reset` gives the reset state from any state. The model's own three
fields stay (log entry 22). -/
def Obligations.StartAndResetMoveTheRunState : Prop :=
  (∀ s : State, s.run = .stopped → ∃ t, HostTx.start.perform s = .next t ∧ t.run = .running ∧
    Untouched (fun p => p = .run) s t) ∧
  (∀ s : State, s.run ≠ .stopped → HostTx.start.perform s = .next s) ∧
  (∀ s : State, ∃ t, HostTx.reset.perform s = .next t ∧
    Untouched (fun p => p = .draws ∨ p = .inbox ∨ p = .standing) State.reset t ∧
    t.draws = s.draws ∧ t.inbox = s.inbox ∧ t.standing = s.standing)

/-- R276, R277, R280, R282 (`read_status` is the spec's decision D31; replies are functions, log entry
23): the reads change nothing and return what they are said to. -/
def Obligations.HostReadsChangeNothing : Prop :=
  ∀ s : State,
    (HostTx.readFramebuffer.perform s = .next s ∧ HostTx.readFramebuffer.reply s = .pixels s.fb) ∧
    (HostTx.isSoundActive.perform s = .next s ∧
      HostTx.isSoundActive.reply s = .flag (decide (s.st.toNat > 0))) ∧
    (HostTx.isRunning.perform s = .next s ∧
      HostTx.isRunning.reply s = .flag (decide (s.run = .running))) ∧
    (HostTx.readStatus.perform s = .next s ∧ HostTx.readStatus.reply s =
      .status ⟨s.run, s.faultCause, s.faultPc, s.faultOpcode, s.reports⟩)

/-! ## Reset and invariants (spec/70_reset_and_hazards.md, spec/10_state.md) -/

/-- R290: the reset state (the values other than pc, memory, the keypad and FONT_BASE are the spec's
decisions D20, D23, D28, D31; log entry 6). Memory is its own statement. -/
def Obligations.ResetStateIsAsListed : Prop :=
  (∀ x, State.reset.getV x = 0) ∧ State.reset.i = 0 ∧ State.reset.pc = 0x200 ∧
  State.reset.stack = [] ∧ State.reset.dt = 0 ∧ State.reset.st = 0 ∧
  (∀ px py, State.reset.fb.pixel px py = false) ∧
  (∀ (k : Nat) (hk : k < 16), State.reset.key[k] = false) ∧
  State.reset.run = .stopped ∧ State.reset.fontBase = 0 ∧ State.reset.faultCause = .none ∧
  State.reset.faultPc = 0 ∧ State.reset.faultOpcode = 0 ∧ State.reset.reports = []

/-- The invariant of the machine holds after reset (the reset values are the spec's decisions, log
entry 6). -/
def Obligations.ResetMeetsTheInvariant : Prop := State.reset.Inv

/-- Every step keeps the invariant: the stack bound and the return addresses (R27), the pc bound 0x10FE
(R25), the fault record (R33, R241, R242), the font inside memory (R274), the reports (R247) and the
canonical form of memory. The depth, the faults and the record are the spec's decisions D3 to D5 and D28
(log entries 3 and 7), the canonical form is the model's (log entry 20). -/
def Obligations.EveryStepKeepsTheInvariant : Prop :=
  ∀ s t : State, s.Inv → step s = .next t → t.Inv

/-- Every step keeps memory in its canonical form, whatever else the state holds. The form is the
model's own (log entry 20). -/
def Obligations.EveryStepKeepsMemoryCanonical : Prop :=
  ∀ s t : State, s.mem.wf = true → step s = .next t → t.mem.wf = true

/-! ## Progress (spec/60_exceptions.md R283) -/

/-- R283, with R273 (the spec's decision D29): a step that performs no `tick`, no `Cycle()` and no `reset`
runs nothing: every V register, I, pc, the stack, the framebuffer, the fault record, the reports and the
random draws stay, and the timers stay too but for `TimerStep()`. -/
def Obligations.OnlyTicksAndCyclesMakeProgress : Prop :=
  ∀ s t : State, step s = .next t → s.pending ≠ some .cycle →
    (∀ delta, s.pending ≠ some (.tick delta)) → s.pending ≠ some .reset →
    Untouched (fun p => p = .inbox ∨ p = .key ∨ p = .run ∨ p = .fontBase ∨ (∃ a, p = .mem a) ∨
      (s.pending = some .timerStep ∧ (p = .dt ∨ p = .st))) s t
end

