-- ==== Sys2Proof/Laws/State.lean ====
section
/-! SUPPORT. One lemma per field per named update of the state, true by `rfl`, so that no later proof
unfolds a record update. -/

namespace Sys2Proof.Machine

section
variable (s : State) (x : Nibble) (b : Byte)
@[simp] theorem State.setV_v : (s.setV x b).v = s.v.set x.toNat b x.isLt := rfl
@[simp] theorem State.setV_i : (s.setV x b).i = s.i := rfl
@[simp] theorem State.setV_pc : (s.setV x b).pc = s.pc := rfl
@[simp] theorem State.setV_stack : (s.setV x b).stack = s.stack := rfl
@[simp] theorem State.setV_dt : (s.setV x b).dt = s.dt := rfl
@[simp] theorem State.setV_st : (s.setV x b).st = s.st := rfl
@[simp] theorem State.setV_mem : (s.setV x b).mem = s.mem := rfl
@[simp] theorem State.setV_fb : (s.setV x b).fb = s.fb := rfl
@[simp] theorem State.setV_key : (s.setV x b).key = s.key := rfl
@[simp] theorem State.setV_run : (s.setV x b).run = s.run := rfl
@[simp] theorem State.setV_fontBase : (s.setV x b).fontBase = s.fontBase := rfl
@[simp] theorem State.setV_faultCause : (s.setV x b).faultCause = s.faultCause := rfl
@[simp] theorem State.setV_faultPc : (s.setV x b).faultPc = s.faultPc := rfl
@[simp] theorem State.setV_faultOpcode : (s.setV x b).faultOpcode = s.faultOpcode := rfl
@[simp] theorem State.setV_reports : (s.setV x b).reports = s.reports := rfl
@[simp] theorem State.setV_draws : (s.setV x b).draws = s.draws := rfl
@[simp] theorem State.setV_inbox : (s.setV x b).inbox = s.inbox := rfl
@[simp] theorem State.setV_standing : (s.setV x b).standing = s.standing := rfl
@[simp] theorem State.setV_readByte (a' : Nat) : (s.setV x b).readByte a' = s.readByte a' := rfl
@[simp] theorem State.setV_keyDown (k' : Nat) : (s.setV x b).keyDown k' = s.keyDown k' := rfl
@[simp] theorem State.setV_lowestKey : (s.setV x b).lowestKey = s.lowestKey := rfl
@[simp] theorem State.setV_top : (s.setV x b).top = s.top := rfl
@[simp] theorem State.setV_sp : (s.setV x b).sp = s.sp := rfl
end

section
variable (s : State) (w : Word)
@[simp] theorem State.setI_v : (s.setI w).v = s.v := rfl
@[simp] theorem State.setI_i : (s.setI w).i = w := rfl
@[simp] theorem State.setI_pc : (s.setI w).pc = s.pc := rfl
@[simp] theorem State.setI_stack : (s.setI w).stack = s.stack := rfl
@[simp] theorem State.setI_dt : (s.setI w).dt = s.dt := rfl
@[simp] theorem State.setI_st : (s.setI w).st = s.st := rfl
@[simp] theorem State.setI_mem : (s.setI w).mem = s.mem := rfl
@[simp] theorem State.setI_fb : (s.setI w).fb = s.fb := rfl
@[simp] theorem State.setI_key : (s.setI w).key = s.key := rfl
@[simp] theorem State.setI_run : (s.setI w).run = s.run := rfl
@[simp] theorem State.setI_fontBase : (s.setI w).fontBase = s.fontBase := rfl
@[simp] theorem State.setI_faultCause : (s.setI w).faultCause = s.faultCause := rfl
@[simp] theorem State.setI_faultPc : (s.setI w).faultPc = s.faultPc := rfl
@[simp] theorem State.setI_faultOpcode : (s.setI w).faultOpcode = s.faultOpcode := rfl
@[simp] theorem State.setI_reports : (s.setI w).reports = s.reports := rfl
@[simp] theorem State.setI_draws : (s.setI w).draws = s.draws := rfl
@[simp] theorem State.setI_inbox : (s.setI w).inbox = s.inbox := rfl
@[simp] theorem State.setI_standing : (s.setI w).standing = s.standing := rfl
@[simp] theorem State.setI_getV (y : Nibble) : (s.setI w).getV y = s.getV y := rfl
@[simp] theorem State.setI_readByte (a' : Nat) : (s.setI w).readByte a' = s.readByte a' := rfl
@[simp] theorem State.setI_keyDown (k' : Nat) : (s.setI w).keyDown k' = s.keyDown k' := rfl
@[simp] theorem State.setI_lowestKey : (s.setI w).lowestKey = s.lowestKey := rfl
@[simp] theorem State.setI_top : (s.setI w).top = s.top := rfl
@[simp] theorem State.setI_sp : (s.setI w).sp = s.sp := rfl
end

section
variable (s : State) (b : Byte)
@[simp] theorem State.setDt_v : (s.setDt b).v = s.v := rfl
@[simp] theorem State.setDt_i : (s.setDt b).i = s.i := rfl
@[simp] theorem State.setDt_pc : (s.setDt b).pc = s.pc := rfl
@[simp] theorem State.setDt_stack : (s.setDt b).stack = s.stack := rfl
@[simp] theorem State.setDt_dt : (s.setDt b).dt = b := rfl
@[simp] theorem State.setDt_st : (s.setDt b).st = s.st := rfl
@[simp] theorem State.setDt_mem : (s.setDt b).mem = s.mem := rfl
@[simp] theorem State.setDt_fb : (s.setDt b).fb = s.fb := rfl
@[simp] theorem State.setDt_key : (s.setDt b).key = s.key := rfl
@[simp] theorem State.setDt_run : (s.setDt b).run = s.run := rfl
@[simp] theorem State.setDt_fontBase : (s.setDt b).fontBase = s.fontBase := rfl
@[simp] theorem State.setDt_faultCause : (s.setDt b).faultCause = s.faultCause := rfl
@[simp] theorem State.setDt_faultPc : (s.setDt b).faultPc = s.faultPc := rfl
@[simp] theorem State.setDt_faultOpcode : (s.setDt b).faultOpcode = s.faultOpcode := rfl
@[simp] theorem State.setDt_reports : (s.setDt b).reports = s.reports := rfl
@[simp] theorem State.setDt_draws : (s.setDt b).draws = s.draws := rfl
@[simp] theorem State.setDt_inbox : (s.setDt b).inbox = s.inbox := rfl
@[simp] theorem State.setDt_standing : (s.setDt b).standing = s.standing := rfl
@[simp] theorem State.setDt_getV (y : Nibble) : (s.setDt b).getV y = s.getV y := rfl
@[simp] theorem State.setDt_readByte (a' : Nat) : (s.setDt b).readByte a' = s.readByte a' := rfl
@[simp] theorem State.setDt_keyDown (k' : Nat) : (s.setDt b).keyDown k' = s.keyDown k' := rfl
@[simp] theorem State.setDt_lowestKey : (s.setDt b).lowestKey = s.lowestKey := rfl
@[simp] theorem State.setDt_top : (s.setDt b).top = s.top := rfl
@[simp] theorem State.setDt_sp : (s.setDt b).sp = s.sp := rfl
end

section
variable (s : State) (b : Byte)
@[simp] theorem State.setSt_v : (s.setSt b).v = s.v := rfl
@[simp] theorem State.setSt_i : (s.setSt b).i = s.i := rfl
@[simp] theorem State.setSt_pc : (s.setSt b).pc = s.pc := rfl
@[simp] theorem State.setSt_stack : (s.setSt b).stack = s.stack := rfl
@[simp] theorem State.setSt_dt : (s.setSt b).dt = s.dt := rfl
@[simp] theorem State.setSt_st : (s.setSt b).st = b := rfl
@[simp] theorem State.setSt_mem : (s.setSt b).mem = s.mem := rfl
@[simp] theorem State.setSt_fb : (s.setSt b).fb = s.fb := rfl
@[simp] theorem State.setSt_key : (s.setSt b).key = s.key := rfl
@[simp] theorem State.setSt_run : (s.setSt b).run = s.run := rfl
@[simp] theorem State.setSt_fontBase : (s.setSt b).fontBase = s.fontBase := rfl
@[simp] theorem State.setSt_faultCause : (s.setSt b).faultCause = s.faultCause := rfl
@[simp] theorem State.setSt_faultPc : (s.setSt b).faultPc = s.faultPc := rfl
@[simp] theorem State.setSt_faultOpcode : (s.setSt b).faultOpcode = s.faultOpcode := rfl
@[simp] theorem State.setSt_reports : (s.setSt b).reports = s.reports := rfl
@[simp] theorem State.setSt_draws : (s.setSt b).draws = s.draws := rfl
@[simp] theorem State.setSt_inbox : (s.setSt b).inbox = s.inbox := rfl
@[simp] theorem State.setSt_standing : (s.setSt b).standing = s.standing := rfl
@[simp] theorem State.setSt_getV (y : Nibble) : (s.setSt b).getV y = s.getV y := rfl
@[simp] theorem State.setSt_readByte (a' : Nat) : (s.setSt b).readByte a' = s.readByte a' := rfl
@[simp] theorem State.setSt_keyDown (k' : Nat) : (s.setSt b).keyDown k' = s.keyDown k' := rfl
@[simp] theorem State.setSt_lowestKey : (s.setSt b).lowestKey = s.lowestKey := rfl
@[simp] theorem State.setSt_top : (s.setSt b).top = s.top := rfl
@[simp] theorem State.setSt_sp : (s.setSt b).sp = s.sp := rfl
end

section
variable (s : State)
@[simp] theorem State.nextDraw_v : (s.nextDraw).v = s.v := rfl
@[simp] theorem State.nextDraw_i : (s.nextDraw).i = s.i := rfl
@[simp] theorem State.nextDraw_pc : (s.nextDraw).pc = s.pc := rfl
@[simp] theorem State.nextDraw_stack : (s.nextDraw).stack = s.stack := rfl
@[simp] theorem State.nextDraw_dt : (s.nextDraw).dt = s.dt := rfl
@[simp] theorem State.nextDraw_st : (s.nextDraw).st = s.st := rfl
@[simp] theorem State.nextDraw_mem : (s.nextDraw).mem = s.mem := rfl
@[simp] theorem State.nextDraw_fb : (s.nextDraw).fb = s.fb := rfl
@[simp] theorem State.nextDraw_key : (s.nextDraw).key = s.key := rfl
@[simp] theorem State.nextDraw_run : (s.nextDraw).run = s.run := rfl
@[simp] theorem State.nextDraw_fontBase : (s.nextDraw).fontBase = s.fontBase := rfl
@[simp] theorem State.nextDraw_faultCause : (s.nextDraw).faultCause = s.faultCause := rfl
@[simp] theorem State.nextDraw_faultPc : (s.nextDraw).faultPc = s.faultPc := rfl
@[simp] theorem State.nextDraw_faultOpcode : (s.nextDraw).faultOpcode = s.faultOpcode := rfl
@[simp] theorem State.nextDraw_reports : (s.nextDraw).reports = s.reports := rfl
@[simp] theorem State.nextDraw_draws : (s.nextDraw).draws = s.draws + 1 := rfl
@[simp] theorem State.nextDraw_inbox : (s.nextDraw).inbox = s.inbox := rfl
@[simp] theorem State.nextDraw_standing : (s.nextDraw).standing = s.standing := rfl
@[simp] theorem State.nextDraw_getV (y : Nibble) : (s.nextDraw).getV y = s.getV y := rfl
@[simp] theorem State.nextDraw_readByte (a' : Nat) : (s.nextDraw).readByte a' = s.readByte a' := rfl
@[simp] theorem State.nextDraw_keyDown (k' : Nat) : (s.nextDraw).keyDown k' = s.keyDown k' := rfl
@[simp] theorem State.nextDraw_lowestKey : (s.nextDraw).lowestKey = s.lowestKey := rfl
@[simp] theorem State.nextDraw_top : (s.nextDraw).top = s.top := rfl
@[simp] theorem State.nextDraw_sp : (s.nextDraw).sp = s.sp := rfl
end

section
variable (s : State) (w : Word)
@[simp] theorem State.setPc_v : (s.setPc w).v = s.v := rfl
@[simp] theorem State.setPc_i : (s.setPc w).i = s.i := rfl
@[simp] theorem State.setPc_pc : (s.setPc w).pc = w := rfl
@[simp] theorem State.setPc_stack : (s.setPc w).stack = s.stack := rfl
@[simp] theorem State.setPc_dt : (s.setPc w).dt = s.dt := rfl
@[simp] theorem State.setPc_st : (s.setPc w).st = s.st := rfl
@[simp] theorem State.setPc_mem : (s.setPc w).mem = s.mem := rfl
@[simp] theorem State.setPc_fb : (s.setPc w).fb = s.fb := rfl
@[simp] theorem State.setPc_key : (s.setPc w).key = s.key := rfl
@[simp] theorem State.setPc_run : (s.setPc w).run = s.run := rfl
@[simp] theorem State.setPc_fontBase : (s.setPc w).fontBase = s.fontBase := rfl
@[simp] theorem State.setPc_faultCause : (s.setPc w).faultCause = s.faultCause := rfl
@[simp] theorem State.setPc_faultPc : (s.setPc w).faultPc = s.faultPc := rfl
@[simp] theorem State.setPc_faultOpcode : (s.setPc w).faultOpcode = s.faultOpcode := rfl
@[simp] theorem State.setPc_reports : (s.setPc w).reports = s.reports := rfl
@[simp] theorem State.setPc_draws : (s.setPc w).draws = s.draws := rfl
@[simp] theorem State.setPc_inbox : (s.setPc w).inbox = s.inbox := rfl
@[simp] theorem State.setPc_standing : (s.setPc w).standing = s.standing := rfl
@[simp] theorem State.setPc_getV (y : Nibble) : (s.setPc w).getV y = s.getV y := rfl
@[simp] theorem State.setPc_readByte (a' : Nat) : (s.setPc w).readByte a' = s.readByte a' := rfl
@[simp] theorem State.setPc_keyDown (k' : Nat) : (s.setPc w).keyDown k' = s.keyDown k' := rfl
@[simp] theorem State.setPc_lowestKey : (s.setPc w).lowestKey = s.lowestKey := rfl
@[simp] theorem State.setPc_top : (s.setPc w).top = s.top := rfl
@[simp] theorem State.setPc_sp : (s.setPc w).sp = s.sp := rfl
end

section
variable (s : State)
@[simp] theorem State.advance_v : (s.advance).v = s.v := rfl
@[simp] theorem State.advance_i : (s.advance).i = s.i := rfl
@[simp] theorem State.advance_pc : (s.advance).pc = s.pc + 2 := rfl
@[simp] theorem State.advance_stack : (s.advance).stack = s.stack := rfl
@[simp] theorem State.advance_dt : (s.advance).dt = s.dt := rfl
@[simp] theorem State.advance_st : (s.advance).st = s.st := rfl
@[simp] theorem State.advance_mem : (s.advance).mem = s.mem := rfl
@[simp] theorem State.advance_fb : (s.advance).fb = s.fb := rfl
@[simp] theorem State.advance_key : (s.advance).key = s.key := rfl
@[simp] theorem State.advance_run : (s.advance).run = s.run := rfl
@[simp] theorem State.advance_fontBase : (s.advance).fontBase = s.fontBase := rfl
@[simp] theorem State.advance_faultCause : (s.advance).faultCause = s.faultCause := rfl
@[simp] theorem State.advance_faultPc : (s.advance).faultPc = s.faultPc := rfl
@[simp] theorem State.advance_faultOpcode : (s.advance).faultOpcode = s.faultOpcode := rfl
@[simp] theorem State.advance_reports : (s.advance).reports = s.reports := rfl
@[simp] theorem State.advance_draws : (s.advance).draws = s.draws := rfl
@[simp] theorem State.advance_inbox : (s.advance).inbox = s.inbox := rfl
@[simp] theorem State.advance_standing : (s.advance).standing = s.standing := rfl
@[simp] theorem State.advance_getV (y : Nibble) : (s.advance).getV y = s.getV y := rfl
@[simp] theorem State.advance_readByte (a' : Nat) : (s.advance).readByte a' = s.readByte a' := rfl
@[simp] theorem State.advance_keyDown (k' : Nat) : (s.advance).keyDown k' = s.keyDown k' := rfl
@[simp] theorem State.advance_lowestKey : (s.advance).lowestKey = s.lowestKey := rfl
@[simp] theorem State.advance_top : (s.advance).top = s.top := rfl
@[simp] theorem State.advance_sp : (s.advance).sp = s.sp := rfl
end

section
variable (s : State) (w : Word)
@[simp] theorem State.push_v : (s.push w).v = s.v := rfl
@[simp] theorem State.push_i : (s.push w).i = s.i := rfl
@[simp] theorem State.push_pc : (s.push w).pc = s.pc := rfl
@[simp] theorem State.push_stack : (s.push w).stack = s.stack ++ [w] := rfl
@[simp] theorem State.push_dt : (s.push w).dt = s.dt := rfl
@[simp] theorem State.push_st : (s.push w).st = s.st := rfl
@[simp] theorem State.push_mem : (s.push w).mem = s.mem := rfl
@[simp] theorem State.push_fb : (s.push w).fb = s.fb := rfl
@[simp] theorem State.push_key : (s.push w).key = s.key := rfl
@[simp] theorem State.push_run : (s.push w).run = s.run := rfl
@[simp] theorem State.push_fontBase : (s.push w).fontBase = s.fontBase := rfl
@[simp] theorem State.push_faultCause : (s.push w).faultCause = s.faultCause := rfl
@[simp] theorem State.push_faultPc : (s.push w).faultPc = s.faultPc := rfl
@[simp] theorem State.push_faultOpcode : (s.push w).faultOpcode = s.faultOpcode := rfl
@[simp] theorem State.push_reports : (s.push w).reports = s.reports := rfl
@[simp] theorem State.push_draws : (s.push w).draws = s.draws := rfl
@[simp] theorem State.push_inbox : (s.push w).inbox = s.inbox := rfl
@[simp] theorem State.push_standing : (s.push w).standing = s.standing := rfl
@[simp] theorem State.push_getV (y : Nibble) : (s.push w).getV y = s.getV y := rfl
@[simp] theorem State.push_readByte (a' : Nat) : (s.push w).readByte a' = s.readByte a' := rfl
@[simp] theorem State.push_keyDown (k' : Nat) : (s.push w).keyDown k' = s.keyDown k' := rfl
@[simp] theorem State.push_lowestKey : (s.push w).lowestKey = s.lowestKey := rfl
end

section
variable (s : State)
@[simp] theorem State.pop_v : (s.pop).v = s.v := rfl
@[simp] theorem State.pop_i : (s.pop).i = s.i := rfl
@[simp] theorem State.pop_pc : (s.pop).pc = s.pc := rfl
@[simp] theorem State.pop_stack : (s.pop).stack = s.stack.dropLast := rfl
@[simp] theorem State.pop_dt : (s.pop).dt = s.dt := rfl
@[simp] theorem State.pop_st : (s.pop).st = s.st := rfl
@[simp] theorem State.pop_mem : (s.pop).mem = s.mem := rfl
@[simp] theorem State.pop_fb : (s.pop).fb = s.fb := rfl
@[simp] theorem State.pop_key : (s.pop).key = s.key := rfl
@[simp] theorem State.pop_run : (s.pop).run = s.run := rfl
@[simp] theorem State.pop_fontBase : (s.pop).fontBase = s.fontBase := rfl
@[simp] theorem State.pop_faultCause : (s.pop).faultCause = s.faultCause := rfl
@[simp] theorem State.pop_faultPc : (s.pop).faultPc = s.faultPc := rfl
@[simp] theorem State.pop_faultOpcode : (s.pop).faultOpcode = s.faultOpcode := rfl
@[simp] theorem State.pop_reports : (s.pop).reports = s.reports := rfl
@[simp] theorem State.pop_draws : (s.pop).draws = s.draws := rfl
@[simp] theorem State.pop_inbox : (s.pop).inbox = s.inbox := rfl
@[simp] theorem State.pop_standing : (s.pop).standing = s.standing := rfl
@[simp] theorem State.pop_getV (y : Nibble) : (s.pop).getV y = s.getV y := rfl
@[simp] theorem State.pop_readByte (a' : Nat) : (s.pop).readByte a' = s.readByte a' := rfl
@[simp] theorem State.pop_keyDown (k' : Nat) : (s.pop).keyDown k' = s.keyDown k' := rfl
@[simp] theorem State.pop_lowestKey : (s.pop).lowestKey = s.lowestKey := rfl
end

section
variable (s : State) (fb : Framebuffer)
@[simp] theorem State.setFb_v : (s.setFb fb).v = s.v := rfl
@[simp] theorem State.setFb_i : (s.setFb fb).i = s.i := rfl
@[simp] theorem State.setFb_pc : (s.setFb fb).pc = s.pc := rfl
@[simp] theorem State.setFb_stack : (s.setFb fb).stack = s.stack := rfl
@[simp] theorem State.setFb_dt : (s.setFb fb).dt = s.dt := rfl
@[simp] theorem State.setFb_st : (s.setFb fb).st = s.st := rfl
@[simp] theorem State.setFb_mem : (s.setFb fb).mem = s.mem := rfl
@[simp] theorem State.setFb_fb : (s.setFb fb).fb = fb := rfl
@[simp] theorem State.setFb_key : (s.setFb fb).key = s.key := rfl
@[simp] theorem State.setFb_run : (s.setFb fb).run = s.run := rfl
@[simp] theorem State.setFb_fontBase : (s.setFb fb).fontBase = s.fontBase := rfl
@[simp] theorem State.setFb_faultCause : (s.setFb fb).faultCause = s.faultCause := rfl
@[simp] theorem State.setFb_faultPc : (s.setFb fb).faultPc = s.faultPc := rfl
@[simp] theorem State.setFb_faultOpcode : (s.setFb fb).faultOpcode = s.faultOpcode := rfl
@[simp] theorem State.setFb_reports : (s.setFb fb).reports = s.reports := rfl
@[simp] theorem State.setFb_draws : (s.setFb fb).draws = s.draws := rfl
@[simp] theorem State.setFb_inbox : (s.setFb fb).inbox = s.inbox := rfl
@[simp] theorem State.setFb_standing : (s.setFb fb).standing = s.standing := rfl
@[simp] theorem State.setFb_getV (y : Nibble) : (s.setFb fb).getV y = s.getV y := rfl
@[simp] theorem State.setFb_readByte (a' : Nat) : (s.setFb fb).readByte a' = s.readByte a' := rfl
@[simp] theorem State.setFb_keyDown (k' : Nat) : (s.setFb fb).keyDown k' = s.keyDown k' := rfl
@[simp] theorem State.setFb_lowestKey : (s.setFb fb).lowestKey = s.lowestKey := rfl
@[simp] theorem State.setFb_top : (s.setFb fb).top = s.top := rfl
@[simp] theorem State.setFb_sp : (s.setFb fb).sp = s.sp := rfl
end

section
variable (s : State) (k : Nat) (p : Bool)
@[simp] theorem State.setKey_v : (s.setKey k p).v = s.v := rfl
@[simp] theorem State.setKey_i : (s.setKey k p).i = s.i := rfl
@[simp] theorem State.setKey_pc : (s.setKey k p).pc = s.pc := rfl
@[simp] theorem State.setKey_stack : (s.setKey k p).stack = s.stack := rfl
@[simp] theorem State.setKey_dt : (s.setKey k p).dt = s.dt := rfl
@[simp] theorem State.setKey_st : (s.setKey k p).st = s.st := rfl
@[simp] theorem State.setKey_mem : (s.setKey k p).mem = s.mem := rfl
@[simp] theorem State.setKey_fb : (s.setKey k p).fb = s.fb := rfl
@[simp] theorem State.setKey_key : (s.setKey k p).key = s.key.setIfInBounds k p := rfl
@[simp] theorem State.setKey_run : (s.setKey k p).run = s.run := rfl
@[simp] theorem State.setKey_fontBase : (s.setKey k p).fontBase = s.fontBase := rfl
@[simp] theorem State.setKey_faultCause : (s.setKey k p).faultCause = s.faultCause := rfl
@[simp] theorem State.setKey_faultPc : (s.setKey k p).faultPc = s.faultPc := rfl
@[simp] theorem State.setKey_faultOpcode : (s.setKey k p).faultOpcode = s.faultOpcode := rfl
@[simp] theorem State.setKey_reports : (s.setKey k p).reports = s.reports := rfl
@[simp] theorem State.setKey_draws : (s.setKey k p).draws = s.draws := rfl
@[simp] theorem State.setKey_inbox : (s.setKey k p).inbox = s.inbox := rfl
@[simp] theorem State.setKey_standing : (s.setKey k p).standing = s.standing := rfl
@[simp] theorem State.setKey_getV (y : Nibble) : (s.setKey k p).getV y = s.getV y := rfl
@[simp] theorem State.setKey_readByte (a' : Nat) : (s.setKey k p).readByte a' = s.readByte a' := rfl
@[simp] theorem State.setKey_top : (s.setKey k p).top = s.top := rfl
@[simp] theorem State.setKey_sp : (s.setKey k p).sp = s.sp := rfl
end

section
variable (s : State) (base : Addr)
@[simp] theorem State.setFontBase_v : (s.setFontBase base).v = s.v := rfl
@[simp] theorem State.setFontBase_i : (s.setFontBase base).i = s.i := rfl
@[simp] theorem State.setFontBase_pc : (s.setFontBase base).pc = s.pc := rfl
@[simp] theorem State.setFontBase_stack : (s.setFontBase base).stack = s.stack := rfl
@[simp] theorem State.setFontBase_dt : (s.setFontBase base).dt = s.dt := rfl
@[simp] theorem State.setFontBase_st : (s.setFontBase base).st = s.st := rfl
@[simp] theorem State.setFontBase_mem : (s.setFontBase base).mem = s.mem := rfl
@[simp] theorem State.setFontBase_fb : (s.setFontBase base).fb = s.fb := rfl
@[simp] theorem State.setFontBase_key : (s.setFontBase base).key = s.key := rfl
@[simp] theorem State.setFontBase_run : (s.setFontBase base).run = s.run := rfl
@[simp] theorem State.setFontBase_fontBase : (s.setFontBase base).fontBase = base := rfl
@[simp] theorem State.setFontBase_faultCause : (s.setFontBase base).faultCause = s.faultCause := rfl
@[simp] theorem State.setFontBase_faultPc : (s.setFontBase base).faultPc = s.faultPc := rfl
@[simp] theorem State.setFontBase_faultOpcode : (s.setFontBase base).faultOpcode = s.faultOpcode := rfl
@[simp] theorem State.setFontBase_reports : (s.setFontBase base).reports = s.reports := rfl
@[simp] theorem State.setFontBase_draws : (s.setFontBase base).draws = s.draws := rfl
@[simp] theorem State.setFontBase_inbox : (s.setFontBase base).inbox = s.inbox := rfl
@[simp] theorem State.setFontBase_standing : (s.setFontBase base).standing = s.standing := rfl
@[simp] theorem State.setFontBase_getV (y : Nibble) : (s.setFontBase base).getV y = s.getV y := rfl
@[simp] theorem State.setFontBase_readByte (a' : Nat) : (s.setFontBase base).readByte a' = s.readByte a' := rfl
@[simp] theorem State.setFontBase_keyDown (k' : Nat) : (s.setFontBase base).keyDown k' = s.keyDown k' := rfl
@[simp] theorem State.setFontBase_lowestKey : (s.setFontBase base).lowestKey = s.lowestKey := rfl
@[simp] theorem State.setFontBase_top : (s.setFontBase base).top = s.top := rfl
@[simp] theorem State.setFontBase_sp : (s.setFontBase base).sp = s.sp := rfl
end

section
variable (s : State) (r : RunState)
@[simp] theorem State.setRun_v : (s.setRun r).v = s.v := rfl
@[simp] theorem State.setRun_i : (s.setRun r).i = s.i := rfl
@[simp] theorem State.setRun_pc : (s.setRun r).pc = s.pc := rfl
@[simp] theorem State.setRun_stack : (s.setRun r).stack = s.stack := rfl
@[simp] theorem State.setRun_dt : (s.setRun r).dt = s.dt := rfl
@[simp] theorem State.setRun_st : (s.setRun r).st = s.st := rfl
@[simp] theorem State.setRun_mem : (s.setRun r).mem = s.mem := rfl
@[simp] theorem State.setRun_fb : (s.setRun r).fb = s.fb := rfl
@[simp] theorem State.setRun_key : (s.setRun r).key = s.key := rfl
@[simp] theorem State.setRun_run : (s.setRun r).run = r := rfl
@[simp] theorem State.setRun_fontBase : (s.setRun r).fontBase = s.fontBase := rfl
@[simp] theorem State.setRun_faultCause : (s.setRun r).faultCause = s.faultCause := rfl
@[simp] theorem State.setRun_faultPc : (s.setRun r).faultPc = s.faultPc := rfl
@[simp] theorem State.setRun_faultOpcode : (s.setRun r).faultOpcode = s.faultOpcode := rfl
@[simp] theorem State.setRun_reports : (s.setRun r).reports = s.reports := rfl
@[simp] theorem State.setRun_draws : (s.setRun r).draws = s.draws := rfl
@[simp] theorem State.setRun_inbox : (s.setRun r).inbox = s.inbox := rfl
@[simp] theorem State.setRun_standing : (s.setRun r).standing = s.standing := rfl
@[simp] theorem State.setRun_getV (y : Nibble) : (s.setRun r).getV y = s.getV y := rfl
@[simp] theorem State.setRun_readByte (a' : Nat) : (s.setRun r).readByte a' = s.readByte a' := rfl
@[simp] theorem State.setRun_keyDown (k' : Nat) : (s.setRun r).keyDown k' = s.keyDown k' := rfl
@[simp] theorem State.setRun_lowestKey : (s.setRun r).lowestKey = s.lowestKey := rfl
@[simp] theorem State.setRun_top : (s.setRun r).top = s.top := rfl
@[simp] theorem State.setRun_sp : (s.setRun r).sp = s.sp := rfl
end

section
variable (s : State) (a : Nat) (b : Byte)
@[simp] theorem State.writeByte_v : (s.writeByte a b).v = s.v := rfl
@[simp] theorem State.writeByte_i : (s.writeByte a b).i = s.i := rfl
@[simp] theorem State.writeByte_pc : (s.writeByte a b).pc = s.pc := rfl
@[simp] theorem State.writeByte_stack : (s.writeByte a b).stack = s.stack := rfl
@[simp] theorem State.writeByte_dt : (s.writeByte a b).dt = s.dt := rfl
@[simp] theorem State.writeByte_st : (s.writeByte a b).st = s.st := rfl
@[simp] theorem State.writeByte_mem : (s.writeByte a b).mem = s.mem.write a b := rfl
@[simp] theorem State.writeByte_fb : (s.writeByte a b).fb = s.fb := rfl
@[simp] theorem State.writeByte_key : (s.writeByte a b).key = s.key := rfl
@[simp] theorem State.writeByte_run : (s.writeByte a b).run = s.run := rfl
@[simp] theorem State.writeByte_fontBase : (s.writeByte a b).fontBase = s.fontBase := rfl
@[simp] theorem State.writeByte_faultCause : (s.writeByte a b).faultCause = s.faultCause := rfl
@[simp] theorem State.writeByte_faultPc : (s.writeByte a b).faultPc = s.faultPc := rfl
@[simp] theorem State.writeByte_faultOpcode : (s.writeByte a b).faultOpcode = s.faultOpcode := rfl
@[simp] theorem State.writeByte_reports : (s.writeByte a b).reports = s.reports := rfl
@[simp] theorem State.writeByte_draws : (s.writeByte a b).draws = s.draws := rfl
@[simp] theorem State.writeByte_inbox : (s.writeByte a b).inbox = s.inbox := rfl
@[simp] theorem State.writeByte_standing : (s.writeByte a b).standing = s.standing := rfl
@[simp] theorem State.writeByte_getV (y : Nibble) : (s.writeByte a b).getV y = s.getV y := rfl
@[simp] theorem State.writeByte_keyDown (k' : Nat) : (s.writeByte a b).keyDown k' = s.keyDown k' := rfl
@[simp] theorem State.writeByte_lowestKey : (s.writeByte a b).lowestKey = s.lowestKey := rfl
@[simp] theorem State.writeByte_top : (s.writeByte a b).top = s.top := rfl
@[simp] theorem State.writeByte_sp : (s.writeByte a b).sp = s.sp := rfl
end

section
variable (s : State) (c : FaultCause) (op : Word)
@[simp] theorem State.takeFault_v : (s.takeFault c op).v = s.v := rfl
@[simp] theorem State.takeFault_i : (s.takeFault c op).i = s.i := rfl
@[simp] theorem State.takeFault_pc : (s.takeFault c op).pc = s.pc := rfl
@[simp] theorem State.takeFault_stack : (s.takeFault c op).stack = s.stack := rfl
@[simp] theorem State.takeFault_dt : (s.takeFault c op).dt = s.dt := rfl
@[simp] theorem State.takeFault_st : (s.takeFault c op).st = s.st := rfl
@[simp] theorem State.takeFault_mem : (s.takeFault c op).mem = s.mem := rfl
@[simp] theorem State.takeFault_fb : (s.takeFault c op).fb = s.fb := rfl
@[simp] theorem State.takeFault_key : (s.takeFault c op).key = s.key := rfl
@[simp] theorem State.takeFault_run : (s.takeFault c op).run = .faulted := rfl
@[simp] theorem State.takeFault_fontBase : (s.takeFault c op).fontBase = s.fontBase := rfl
@[simp] theorem State.takeFault_faultCause : (s.takeFault c op).faultCause = c := rfl
@[simp] theorem State.takeFault_faultPc : (s.takeFault c op).faultPc = s.pc := rfl
@[simp] theorem State.takeFault_faultOpcode : (s.takeFault c op).faultOpcode = op := rfl
@[simp] theorem State.takeFault_reports : (s.takeFault c op).reports = s.reports := rfl
@[simp] theorem State.takeFault_draws : (s.takeFault c op).draws = s.draws := rfl
@[simp] theorem State.takeFault_inbox : (s.takeFault c op).inbox = s.inbox := rfl
@[simp] theorem State.takeFault_standing : (s.takeFault c op).standing = s.standing := rfl
@[simp] theorem State.takeFault_getV (y : Nibble) : (s.takeFault c op).getV y = s.getV y := rfl
@[simp] theorem State.takeFault_readByte (a' : Nat) : (s.takeFault c op).readByte a' = s.readByte a' := rfl
@[simp] theorem State.takeFault_keyDown (k' : Nat) : (s.takeFault c op).keyDown k' = s.keyDown k' := rfl
@[simp] theorem State.takeFault_lowestKey : (s.takeFault c op).lowestKey = s.lowestKey := rfl
@[simp] theorem State.takeFault_top : (s.takeFault c op).top = s.top := rfl
@[simp] theorem State.takeFault_sp : (s.takeFault c op).sp = s.sp := rfl
end

section
variable (s : State) (p op : Word)
@[simp] theorem State.report_v : (s.report p op).v = s.v := rfl
@[simp] theorem State.report_i : (s.report p op).i = s.i := rfl
@[simp] theorem State.report_pc : (s.report p op).pc = s.pc := rfl
@[simp] theorem State.report_stack : (s.report p op).stack = s.stack := rfl
@[simp] theorem State.report_dt : (s.report p op).dt = s.dt := rfl
@[simp] theorem State.report_st : (s.report p op).st = s.st := rfl
@[simp] theorem State.report_mem : (s.report p op).mem = s.mem := rfl
@[simp] theorem State.report_fb : (s.report p op).fb = s.fb := rfl
@[simp] theorem State.report_key : (s.report p op).key = s.key := rfl
@[simp] theorem State.report_run : (s.report p op).run = s.run := rfl
@[simp] theorem State.report_fontBase : (s.report p op).fontBase = s.fontBase := rfl
@[simp] theorem State.report_faultCause : (s.report p op).faultCause = s.faultCause := rfl
@[simp] theorem State.report_faultPc : (s.report p op).faultPc = s.faultPc := rfl
@[simp] theorem State.report_faultOpcode : (s.report p op).faultOpcode = s.faultOpcode := rfl
@[simp] theorem State.report_reports : (s.report p op).reports = s.reports ++ [⟨.unknownOpcode, p, op⟩] := rfl
@[simp] theorem State.report_draws : (s.report p op).draws = s.draws := rfl
@[simp] theorem State.report_inbox : (s.report p op).inbox = s.inbox := rfl
@[simp] theorem State.report_standing : (s.report p op).standing = s.standing := rfl
@[simp] theorem State.report_getV (y : Nibble) : (s.report p op).getV y = s.getV y := rfl
@[simp] theorem State.report_readByte (a' : Nat) : (s.report p op).readByte a' = s.readByte a' := rfl
@[simp] theorem State.report_keyDown (k' : Nat) : (s.report p op).keyDown k' = s.keyDown k' := rfl
@[simp] theorem State.report_lowestKey : (s.report p op).lowestKey = s.lowestKey := rfl
@[simp] theorem State.report_top : (s.report p op).top = s.top := rfl
@[simp] theorem State.report_sp : (s.report p op).sp = s.sp := rfl
end

section
variable (s : State)
@[simp] theorem State.timerStep_v : (s.timerStep).v = s.v := rfl
@[simp] theorem State.timerStep_i : (s.timerStep).i = s.i := rfl
@[simp] theorem State.timerStep_pc : (s.timerStep).pc = s.pc := rfl
@[simp] theorem State.timerStep_stack : (s.timerStep).stack = s.stack := rfl
@[simp] theorem State.timerStep_dt : (s.timerStep).dt = countDown s.dt := rfl
@[simp] theorem State.timerStep_st : (s.timerStep).st = countDown s.st := rfl
@[simp] theorem State.timerStep_mem : (s.timerStep).mem = s.mem := rfl
@[simp] theorem State.timerStep_fb : (s.timerStep).fb = s.fb := rfl
@[simp] theorem State.timerStep_key : (s.timerStep).key = s.key := rfl
@[simp] theorem State.timerStep_run : (s.timerStep).run = s.run := rfl
@[simp] theorem State.timerStep_fontBase : (s.timerStep).fontBase = s.fontBase := rfl
@[simp] theorem State.timerStep_faultCause : (s.timerStep).faultCause = s.faultCause := rfl
@[simp] theorem State.timerStep_faultPc : (s.timerStep).faultPc = s.faultPc := rfl
@[simp] theorem State.timerStep_faultOpcode : (s.timerStep).faultOpcode = s.faultOpcode := rfl
@[simp] theorem State.timerStep_reports : (s.timerStep).reports = s.reports := rfl
@[simp] theorem State.timerStep_draws : (s.timerStep).draws = s.draws := rfl
@[simp] theorem State.timerStep_inbox : (s.timerStep).inbox = s.inbox := rfl
@[simp] theorem State.timerStep_standing : (s.timerStep).standing = s.standing := rfl
@[simp] theorem State.timerStep_getV (y : Nibble) : (s.timerStep).getV y = s.getV y := rfl
@[simp] theorem State.timerStep_readByte (a' : Nat) : (s.timerStep).readByte a' = s.readByte a' := rfl
@[simp] theorem State.timerStep_keyDown (k' : Nat) : (s.timerStep).keyDown k' = s.keyDown k' := rfl
@[simp] theorem State.timerStep_lowestKey : (s.timerStep).lowestKey = s.lowestKey := rfl
@[simp] theorem State.timerStep_top : (s.timerStep).top = s.top := rfl
@[simp] theorem State.timerStep_sp : (s.timerStep).sp = s.sp := rfl
end

section
variable (s : State)
@[simp] theorem State.takeIssued_v : (s.takeIssued).v = s.v := rfl
@[simp] theorem State.takeIssued_i : (s.takeIssued).i = s.i := rfl
@[simp] theorem State.takeIssued_pc : (s.takeIssued).pc = s.pc := rfl
@[simp] theorem State.takeIssued_stack : (s.takeIssued).stack = s.stack := rfl
@[simp] theorem State.takeIssued_dt : (s.takeIssued).dt = s.dt := rfl
@[simp] theorem State.takeIssued_st : (s.takeIssued).st = s.st := rfl
@[simp] theorem State.takeIssued_mem : (s.takeIssued).mem = s.mem := rfl
@[simp] theorem State.takeIssued_fb : (s.takeIssued).fb = s.fb := rfl
@[simp] theorem State.takeIssued_key : (s.takeIssued).key = s.key := rfl
@[simp] theorem State.takeIssued_run : (s.takeIssued).run = s.run := rfl
@[simp] theorem State.takeIssued_fontBase : (s.takeIssued).fontBase = s.fontBase := rfl
@[simp] theorem State.takeIssued_faultCause : (s.takeIssued).faultCause = s.faultCause := rfl
@[simp] theorem State.takeIssued_faultPc : (s.takeIssued).faultPc = s.faultPc := rfl
@[simp] theorem State.takeIssued_faultOpcode : (s.takeIssued).faultOpcode = s.faultOpcode := rfl
@[simp] theorem State.takeIssued_reports : (s.takeIssued).reports = s.reports := rfl
@[simp] theorem State.takeIssued_draws : (s.takeIssued).draws = s.draws := rfl
@[simp] theorem State.takeIssued_inbox : (s.takeIssued).inbox = s.inbox.tail := rfl
@[simp] theorem State.takeIssued_standing : (s.takeIssued).standing = s.standing := rfl
@[simp] theorem State.takeIssued_getV (y : Nibble) : (s.takeIssued).getV y = s.getV y := rfl
@[simp] theorem State.takeIssued_readByte (a' : Nat) : (s.takeIssued).readByte a' = s.readByte a' := rfl
@[simp] theorem State.takeIssued_keyDown (k' : Nat) : (s.takeIssued).keyDown k' = s.keyDown k' := rfl
@[simp] theorem State.takeIssued_lowestKey : (s.takeIssued).lowestKey = s.lowestKey := rfl
@[simp] theorem State.takeIssued_top : (s.takeIssued).top = s.top := rfl
@[simp] theorem State.takeIssued_sp : (s.takeIssued).sp = s.sp := rfl
end

/-- A skip changes nothing but pc. -/
theorem State.skipIf_eq (s : State) (c : Bool) :
    s.skipIf c = s.setPc (if c then s.pc + 2 else s.pc) := by
  cases c <;> rfl

end Sys2Proof.Machine
end

