-- ==== Sys2Proof/Laws/Memory.lean ====
section
/-! SUPPORT. The laws of memory: a read after a write, that a write leaves every other address alone, and
that every memory operation keeps the canonical form. -/

namespace Sys2Proof.Machine

/-! ## One byte -/

theorem Memory.read_filter_same (m : Memory) (a : Nat) :
    Memory.read (m.filter fun c => c.1 != a) a = resetByte a := by
  induction m with
  | nil => rfl
  | cons c m ih =>
    by_cases h : c.1 = a <;> simp [Memory.read, h, ih]

theorem Memory.read_filter_ne (m : Memory) {a a' : Nat} (h : a' ≠ a) :
    Memory.read (m.filter fun c => c.1 != a) a' = m.read a' := by
  induction m with
  | nil => rfl
  | cons c m ih =>
    by_cases hc : c.1 = a
    · simp [Memory.read, hc, ih, h.symm]
    · simp [Memory.read, hc, ih]

theorem Memory.read_insert_ne (m : Memory) {a a' : Nat} (b : Byte) (h : a' ≠ a) :
    Memory.read (Memory.insert a b m) a' = m.read a' := by
  induction m with
  | nil => simp [Memory.insert, Memory.read, h.symm]
  | cons c m ih =>
    by_cases hc : a < c.1 <;> simp [Memory.insert, Memory.read, hc, ih, h.symm]

theorem Memory.read_insert_same (m : Memory) {a : Nat} (b : Byte) (h : ∀ c ∈ m, c.1 ≠ a) :
    Memory.read (Memory.insert a b m) a = b := by
  induction m with
  | nil => simp [Memory.insert, Memory.read]
  | cons c m ih =>
    have hne := h c (by simp)
    by_cases hc : a < c.1
    · simp [Memory.insert, Memory.read, hc]
    · simp [Memory.insert, Memory.read, hc, hne, ih fun d hd => h d (by simp [hd])]

/-- A read after a write to the same address gives the byte written, in every memory. -/
@[simp] theorem Memory.read_write_same (m : Memory) (a : Nat) (b : Byte) :
    (m.write a b).read a = b := by
  unfold Memory.write
  by_cases h : b = resetByte a
  · simp only [h, if_true, Memory.read_filter_same]
  · simp only [h, if_false]
    exact Memory.read_insert_same _ b (by simp)

/-- A write leaves every other address as it was, in every memory. -/
theorem Memory.read_write_ne (m : Memory) {a a' : Nat} (b : Byte) (h : a' ≠ a) :
    (m.write a b).read a' = m.read a' := by
  unfold Memory.write
  by_cases hb : b = resetByte a
  · simp only [hb, if_true, Memory.read_filter_ne m h]
  · simp only [hb, if_false, Memory.read_insert_ne _ b h, Memory.read_filter_ne m h]

@[simp] theorem State.readByte_writeByte_same (s : State) (a : Nat) (b : Byte) :
    (s.writeByte a b).readByte a = b := Memory.read_write_same _ _ _

theorem State.readByte_writeByte_ne (s : State) {a a' : Nat} (b : Byte) (h : a' ≠ a) :
    (s.writeByte a b).readByte a' = s.readByte a' := Memory.read_write_ne _ _ h

/-! ## The canonical form -/

theorem Memory.wf_iff (m : Memory) :
    m.wf = true ↔
      m.Pairwise (fun c d => c.1 < d.1) ∧ ∀ c ∈ m, c.1 < memSize ∧ c.2 ≠ resetByte c.1 := by
  simp [Memory.wf]

theorem Memory.mem_insert (m : Memory) (a : Nat) (b : Byte) (c : Host.Cell) :
    c ∈ Memory.insert a b m ↔ c = (a, b) ∨ c ∈ m := by
  induction m with
  | nil => simp [Memory.insert]
  | cons d m ih =>
    by_cases h : a < d.1
    · simp [Memory.insert, h]
    · simp only [Memory.insert, h, if_false, List.mem_cons, ih]
      tauto

theorem Memory.pairwise_insert (m : Memory) (a : Nat) (b : Byte)
    (hs : m.Pairwise fun c d => c.1 < d.1) (hne : ∀ c ∈ m, c.1 ≠ a) :
    (Memory.insert a b m).Pairwise fun c d => c.1 < d.1 := by
  induction m with
  | nil => simp [Memory.insert]
  | cons d m ih =>
    obtain ⟨hd, hm⟩ := List.pairwise_cons.1 hs
    by_cases h : a < d.1
    · simp only [Memory.insert, h, if_true]
      refine List.pairwise_cons.2 ⟨fun c hc => ?_, hs⟩
      rcases List.mem_cons.1 hc with rfl | hc
      · exact h
      · exact Nat.lt_trans h (hd c hc)
    · simp only [Memory.insert, h, if_false]
      refine List.pairwise_cons.2 ⟨fun c hc => ?_, ih hm fun c hc => hne c (by simp [hc])⟩
      rcases (Memory.mem_insert m a b c).1 hc with rfl | hc
      · have := hne d (by simp)
        simp only
        omega
      · exact hd c hc

/-- A write inside the memory keeps the canonical form. -/
theorem Memory.wf_write (m : Memory) {a : Nat} (b : Byte) (ha : a < memSize) (h : m.wf = true) :
    (m.write a b).wf = true := by
  rw [Memory.wf_iff] at h ⊢
  obtain ⟨hs, hc⟩ := h
  have hs' := hs.filter (fun c => c.1 != a)
  have hc' : ∀ c ∈ m.filter (fun c => c.1 != a), c.1 < memSize ∧ c.2 ≠ resetByte c.1 :=
    fun c h => hc c (List.mem_filter.1 h).1
  unfold Memory.write
  by_cases hb : b = resetByte a
  · simpa only [hb, if_true] using ⟨hs', hc'⟩
  · simp only [hb, if_false]
    refine ⟨Memory.pairwise_insert _ a b hs' (by simp), fun c h => ?_⟩
    rcases (Memory.mem_insert _ a b c).1 h with rfl | h
    · exact ⟨ha, hb⟩
    · exact hc' c h

theorem State.wf_writeByte (s : State) {a : Nat} (b : Byte) (ha : a < memSize)
    (h : s.mem.wf = true) : (s.writeByte a b).mem.wf = true := Memory.wf_write _ b ha h

theorem State.wf_reset : State.reset.mem.wf = true := by decide

/-! ## Consecutive bytes -/

/-- A block store changes memory alone. -/
theorem State.storeBytes_eq (s : State) (a : Nat) (bs : List Byte) :
    s.storeBytes a bs = { s with mem := (s.storeBytes a bs).mem } := by
  induction bs generalizing s a with
  | nil => rfl
  | cons b bs ih =>
    unfold State.storeBytes
    rw [ih]
    rfl

section
variable (s : State) (a : Nat) (bs : List Byte)
@[simp] theorem State.storeBytes_v : (s.storeBytes a bs).v = s.v := by
  rw [State.storeBytes_eq]
@[simp] theorem State.storeBytes_i : (s.storeBytes a bs).i = s.i := by
  rw [State.storeBytes_eq]
@[simp] theorem State.storeBytes_pc : (s.storeBytes a bs).pc = s.pc := by
  rw [State.storeBytes_eq]
@[simp] theorem State.storeBytes_stack : (s.storeBytes a bs).stack = s.stack := by
  rw [State.storeBytes_eq]
@[simp] theorem State.storeBytes_dt : (s.storeBytes a bs).dt = s.dt := by
  rw [State.storeBytes_eq]
@[simp] theorem State.storeBytes_st : (s.storeBytes a bs).st = s.st := by
  rw [State.storeBytes_eq]
@[simp] theorem State.storeBytes_fb : (s.storeBytes a bs).fb = s.fb := by
  rw [State.storeBytes_eq]
@[simp] theorem State.storeBytes_key : (s.storeBytes a bs).key = s.key := by
  rw [State.storeBytes_eq]
@[simp] theorem State.storeBytes_run : (s.storeBytes a bs).run = s.run := by
  rw [State.storeBytes_eq]
@[simp] theorem State.storeBytes_fontBase : (s.storeBytes a bs).fontBase = s.fontBase := by
  rw [State.storeBytes_eq]
@[simp] theorem State.storeBytes_faultCause : (s.storeBytes a bs).faultCause = s.faultCause := by
  rw [State.storeBytes_eq]
@[simp] theorem State.storeBytes_faultPc : (s.storeBytes a bs).faultPc = s.faultPc := by
  rw [State.storeBytes_eq]
@[simp] theorem State.storeBytes_faultOpcode : (s.storeBytes a bs).faultOpcode = s.faultOpcode := by
  rw [State.storeBytes_eq]
@[simp] theorem State.storeBytes_reports : (s.storeBytes a bs).reports = s.reports := by
  rw [State.storeBytes_eq]
@[simp] theorem State.storeBytes_draws : (s.storeBytes a bs).draws = s.draws := by
  rw [State.storeBytes_eq]
@[simp] theorem State.storeBytes_inbox : (s.storeBytes a bs).inbox = s.inbox := by
  rw [State.storeBytes_eq]
@[simp] theorem State.storeBytes_standing : (s.storeBytes a bs).standing = s.standing := by
  rw [State.storeBytes_eq]
@[simp] theorem State.storeBytes_getV (x : Nibble) : (s.storeBytes a bs).getV x = s.getV x := by
  rw [State.storeBytes_eq]; rfl
end

/-- Everything a block store does to memory: the bytes `a .. a + length - 1`, in order, and no other. -/
theorem State.readByte_storeBytes (s : State) (a : Nat) (bs : List Byte) (a' : Nat) :
    (s.storeBytes a bs).readByte a' =
      if h : a ≤ a' ∧ a' < a + bs.length then bs[a' - a]'(by omega) else s.readByte a' := by
  induction bs generalizing s a with
  | nil =>
    have : ¬ (a ≤ a' ∧ a' < a + ([] : List Byte).length) := by simp
    rw [dif_neg this]; rfl
  | cons b bs ih =>
    rw [State.storeBytes, ih]
    simp only [List.length_cons]
    by_cases h0 : a' = a
    · subst h0
      have h1 : ¬ (a' + 1 ≤ a' ∧ a' < a' + 1 + bs.length) := by omega
      have h2 : a' ≤ a' ∧ a' < a' + (bs.length + 1) := by omega
      simp [h2]
    · by_cases h1 : a + 1 ≤ a' ∧ a' < a + 1 + bs.length
      · have h2 : a ≤ a' ∧ a' < a + (bs.length + 1) := by omega
        rw [dif_pos h1, dif_pos h2]
        have h3 : a' - a = (a' - (a + 1)) + 1 := by omega
        simp only [h3, List.getElem_cons_succ]
      · have h2 : ¬ (a ≤ a' ∧ a' < a + (bs.length + 1)) := by omega
        rw [dif_neg h1, dif_neg h2, State.readByte_writeByte_ne _ _ h0]

theorem State.readByte_storeBytes_in (s : State) (a : Nat) (bs : List Byte) (k : Nat)
    (h : k < bs.length) : (s.storeBytes a bs).readByte (a + k) = bs[k] := by
  have h1 : a ≤ a + k ∧ a + k < a + bs.length := by omega
  have h2 : a + k - a = k := by omega
  rw [State.readByte_storeBytes, dif_pos h1]
  simp only [h2]

theorem State.readByte_storeBytes_out (s : State) (a : Nat) (bs : List Byte) (a' : Nat)
    (h : a' < a ∨ a + bs.length ≤ a') : (s.storeBytes a bs).readByte a' = s.readByte a' := by
  have h1 : ¬ (a ≤ a' ∧ a' < a + bs.length) := by omega
  rw [State.readByte_storeBytes, dif_neg h1]

/-- A block store inside the memory keeps the canonical form. -/
theorem State.wf_storeBytes (s : State) (a : Nat) (bs : List Byte) (ha : a + bs.length ≤ memSize)
    (h : s.mem.wf = true) : (s.storeBytes a bs).mem.wf = true := by
  induction bs generalizing s a with
  | nil => exact h
  | cons b bs ih =>
    simp only [List.length_cons] at ha
    exact ih _ _ (by omega) (State.wf_writeByte s b (by omega) h)

end Sys2Proof.Machine
end

