-- ==== Sys2Proof/Laws/Registers.lean ====
section
/-! SUPPORT. The laws of the register file, of the block load, and of the sums of the spec read as exact
integers (spec/10_state.md R20, spec/41_register_alu.md R130). -/

namespace Sys2Proof.Machine

@[simp] theorem State.getV_setV_same (s : State) (x : Nibble) (b : Byte) :
    (s.setV x b).getV x = b := by
  simp [State.getV, State.setV]

theorem State.getV_setV (s : State) (x y : Nibble) (b : Byte) :
    (s.setV x b).getV y = if y = x then b else s.getV y := by
  by_cases h : y = x
  · subst h; simp
  · have hne : x.toNat ≠ y.toNat := fun e => h (BitVec.eq_of_toNat_eq e.symm)
    simp [State.getV, State.setV, h, hne]

theorem State.getV_setV_ne (s : State) {x y : Nibble} (b : Byte) (h : y ≠ x) :
    (s.setV x b).getV y = s.getV y := by
  rw [State.getV_setV, if_neg h]

/-! ## The block load (R165) -/

/-- A block load changes the register file alone. -/
theorem State.loadRegs_eq (s : State) (base k : Nat) :
    s.loadRegs base k = { s with v := (s.loadRegs base k).v } := by
  induction k with
  | zero => rfl
  | succ k ih => rw [State.loadRegs, ih]; rfl

section
variable (s : State) (base k : Nat)
@[simp] theorem State.loadRegs_i : (s.loadRegs base k).i = s.i := by
  rw [State.loadRegs_eq]
@[simp] theorem State.loadRegs_pc : (s.loadRegs base k).pc = s.pc := by
  rw [State.loadRegs_eq]
@[simp] theorem State.loadRegs_stack : (s.loadRegs base k).stack = s.stack := by
  rw [State.loadRegs_eq]
@[simp] theorem State.loadRegs_dt : (s.loadRegs base k).dt = s.dt := by
  rw [State.loadRegs_eq]
@[simp] theorem State.loadRegs_st : (s.loadRegs base k).st = s.st := by
  rw [State.loadRegs_eq]
@[simp] theorem State.loadRegs_mem : (s.loadRegs base k).mem = s.mem := by
  rw [State.loadRegs_eq]
@[simp] theorem State.loadRegs_fb : (s.loadRegs base k).fb = s.fb := by
  rw [State.loadRegs_eq]
@[simp] theorem State.loadRegs_key : (s.loadRegs base k).key = s.key := by
  rw [State.loadRegs_eq]
@[simp] theorem State.loadRegs_run : (s.loadRegs base k).run = s.run := by
  rw [State.loadRegs_eq]
@[simp] theorem State.loadRegs_fontBase : (s.loadRegs base k).fontBase = s.fontBase := by
  rw [State.loadRegs_eq]
@[simp] theorem State.loadRegs_faultCause : (s.loadRegs base k).faultCause = s.faultCause := by
  rw [State.loadRegs_eq]
@[simp] theorem State.loadRegs_faultPc : (s.loadRegs base k).faultPc = s.faultPc := by
  rw [State.loadRegs_eq]
@[simp] theorem State.loadRegs_faultOpcode : (s.loadRegs base k).faultOpcode = s.faultOpcode := by
  rw [State.loadRegs_eq]
@[simp] theorem State.loadRegs_reports : (s.loadRegs base k).reports = s.reports := by
  rw [State.loadRegs_eq]
@[simp] theorem State.loadRegs_draws : (s.loadRegs base k).draws = s.draws := by
  rw [State.loadRegs_eq]
@[simp] theorem State.loadRegs_inbox : (s.loadRegs base k).inbox = s.inbox := by
  rw [State.loadRegs_eq]
@[simp] theorem State.loadRegs_standing : (s.loadRegs base k).standing = s.standing := by
  rw [State.loadRegs_eq]
@[simp] theorem State.loadRegs_readByte (a : Nat) : (s.loadRegs base k).readByte a = s.readByte a := by
  rw [State.loadRegs_eq]; rfl
end

/-- Everything a block load does to the registers: `V[0] .. V[k]` get the bytes from `base` up, and no
other register changes. -/
theorem State.getV_loadRegs (s : State) (base : Nat) (y : Nibble) {k : Nat} (hk : k < 16) :
    (s.loadRegs base k).getV y =
      if y.toNat ≤ k then s.readByte (base + y.toNat) else s.getV y := by
  induction k with
  | zero =>
    rw [State.loadRegs, State.getV_setV]
    by_cases h : y = 0
    · subst h; rfl
    · have : ¬ y.toNat ≤ 0 := fun e => h (BitVec.eq_of_toNat_eq (by simpa using e))
      rw [if_neg h, if_neg this]
  | succ k ih =>
    rw [State.loadRegs, State.getV_setV, ih (by omega)]
    by_cases h : y = BitVec.ofNat 4 (k + 1)
    · have hy : y.toNat = k + 1 := by rw [h, BitVec.toNat_ofNat]; omega
      rw [if_pos h, if_pos (by omega), hy]
    · have hy : y.toNat ≠ k + 1 := fun e => h (BitVec.eq_of_toNat_eq (by
        rw [e, BitVec.toNat_ofNat]; omega))
      rw [if_neg h]
      by_cases h' : y.toNat ≤ k
      · rw [if_pos h', if_pos (by omega)]
      · rw [if_neg h', if_neg (by omega)]

/-! ## The block of registers stored by FX55 -/

@[simp] theorem State.length_regsUpTo (s : State) (x : Nibble) :
    (s.regsUpTo x).length = x.toNat + 1 := by
  simp [State.regsUpTo]

@[simp] theorem State.getElem_regsUpTo (s : State) (x : Nibble) (k : Nat)
    (h : k < (s.regsUpTo x).length) : (s.regsUpTo x)[k] = s.getV (BitVec.ofNat 4 k) := by
  simp [State.regsUpTo]

@[simp] theorem length_bcdDigits (b : Byte) : (bcdDigits b).length = 3 := rfl

@[simp] theorem length_fontGlyphs : fontGlyphs.length = 80 := by decide

/-! ## Bounds -/

theorem blockInBounds_iff (base : Word) (count : Nat) :
    blockInBounds base count = true ↔ count = 0 ∨ base.toNat + count - 1 ≤ 0xFFF := by
  simp [blockInBounds]

/-! ## Sums as exact integers -/

@[simp] theorem toNat_immWord (nnn : Addr) : (immWord nnn).toNat = nnn.toNat := by
  have := nnn.isLt
  simp only [immWord, BitVec.toNat_setWidth]
  omega

@[simp] theorem State.toNat_wideV (s : State) (x : Nibble) : (s.wideV x).toNat = (s.getV x).toNat := by
  have := (s.getV x).isLt
  simp only [State.wideV, BitVec.toNat_setWidth]
  omega

@[simp] theorem State.toNat_glyphAddress (s : State) (d : Byte) :
    (s.glyphAddress d).toNat = (s.fontBase.toNat + d.toNat * 5) % 2 ^ 16 := by
  simp [State.glyphAddress]

@[simp] theorem toNat_flagByte (b : Bool) : (flagByte b).toNat = if b then 1 else 0 := by
  cases b <;> rfl

theorem toNat_countDown (b : Byte) : (countDown b).toNat = b.toNat - 1 := by
  unfold countDown
  by_cases h : b = 0
  · subst h; rfl
  · have : b.toNat ≠ 0 := fun e => h (BitVec.eq_of_toNat_eq e)
    have := b.isLt
    rw [if_neg h, BitVec.toNat_sub]
    simp
    omega

end Sys2Proof.Machine
end

