-- ==== Sys2Proof/Laws/Cycle.lean ====
section
/-! SUPPORT. Frames as a vocabulary, fault entry, and everything a cycle can do, each said once. -/

namespace Sys2Proof.Machine

/-! ## Frames -/

theorem Untouched.refl (c : Piece → Prop) (s : State) : Untouched c s s := by
  constructor <;> intros <;> try simp

/-- A frame holds with more pieces allowed to change. -/
theorem Untouched.mono {c d : Piece → Prop} {s t : State} (h : Untouched c s t)
    (hcd : ∀ p, c p → d p) : Untouched d s t where
  v x hx := h.v x fun e => hx (hcd _ e)
  i hx := h.i fun e => hx (hcd _ e)
  pc hx := h.pc fun e => hx (hcd _ e)
  stack hx := h.stack fun e => hx (hcd _ e)
  dt hx := h.dt fun e => hx (hcd _ e)
  st hx := h.st fun e => hx (hcd _ e)
  mem a hx := h.mem a fun e => hx (hcd _ e)
  fb hx := h.fb fun e => hx (hcd _ e)
  key hx := h.key fun e => hx (hcd _ e)
  run hx := h.run fun e => hx (hcd _ e)
  fontBase hx := h.fontBase fun e => hx (hcd _ e)
  faultRecord hx := h.faultRecord fun e => hx (hcd _ e)
  reports hx := h.reports fun e => hx (hcd _ e)
  draws hx := h.draws fun e => hx (hcd _ e)
  inbox hx := h.inbox fun e => hx (hcd _ e)
  standing hx := h.standing fun e => hx (hcd _ e)

/-- Two steps in a row, with the same pieces allowed to change. -/
theorem Untouched.trans {c : Piece → Prop} {s t u : State} (h : Untouched c s t)
    (k : Untouched c t u) : Untouched c s u where
  v x hx := (k.v x hx).trans (h.v x hx)
  i hx := (k.i hx).trans (h.i hx)
  pc hx := (k.pc hx).trans (h.pc hx)
  stack hx := (k.stack hx).trans (h.stack hx)
  dt hx := (k.dt hx).trans (h.dt hx)
  st hx := (k.st hx).trans (h.st hx)
  mem a hx := (k.mem a hx).trans (h.mem a hx)
  fb hx := (k.fb hx).trans (h.fb hx)
  key hx := (k.key hx).trans (h.key hx)
  run hx := (k.run hx).trans (h.run hx)
  fontBase hx := (k.fontBase hx).trans (h.fontBase hx)
  faultRecord hx := by
    obtain ⟨a, b, c⟩ := h.faultRecord hx
    obtain ⟨a', b', c'⟩ := k.faultRecord hx
    exact ⟨a'.trans a, b'.trans b, c'.trans c⟩
  reports hx := (k.reports hx).trans (h.reports hx)
  draws hx := (k.draws hx).trans (h.draws hx)
  inbox hx := (k.inbox hx).trans (h.inbox hx)
  standing hx := (k.standing hx).trans (h.standing hx)

section
variable (c : Piece → Prop) (s : State)

/-! One frame lemma per named update: it changes the piece it names. -/

theorem untouched_setV (x : Nibble) (b : Byte) (h : c (.v x)) : Untouched c s (s.setV x b) := by
  constructor <;> intros <;> try simp
  case v y hy => exact State.getV_setV_ne s b fun e => hy (e ▸ h)

theorem untouched_setPc (w : Word) (h : c .pc) : Untouched c s (s.setPc w) := by
  constructor <;> intros <;> simp_all

theorem untouched_advance (h : c .pc) : Untouched c s s.advance := untouched_setPc c s _ h

theorem untouched_setI (w : Word) (h : c .i) : Untouched c s (s.setI w) := by
  constructor <;> intros <;> simp_all

theorem untouched_setDt (b : Byte) (h : c .dt) : Untouched c s (s.setDt b) := by
  constructor <;> intros <;> simp_all

theorem untouched_setSt (b : Byte) (h : c .st) : Untouched c s (s.setSt b) := by
  constructor <;> intros <;> simp_all

theorem untouched_setFb (fb : Framebuffer) (h : c .fb) : Untouched c s (s.setFb fb) := by
  constructor <;> intros <;> simp_all

theorem untouched_setKey (k : Nat) (p : Bool) (h : c .key) : Untouched c s (s.setKey k p) := by
  constructor <;> intros <;> simp_all

theorem untouched_setFontBase (b : Addr) (h : c .fontBase) : Untouched c s (s.setFontBase b) := by
  constructor <;> intros <;> simp_all

theorem untouched_setRun (r : RunState) (h : c .run) : Untouched c s (s.setRun r) := by
  constructor <;> intros <;> simp_all

theorem untouched_push (w : Word) (h : c .stack) : Untouched c s (s.push w) := by
  constructor <;> intros <;> simp_all

theorem untouched_pop (h : c .stack) : Untouched c s s.pop := by
  constructor <;> intros <;> simp_all

theorem untouched_nextDraw (h : c .draws) : Untouched c s s.nextDraw := by
  constructor <;> intros <;> simp_all

theorem untouched_report (p op : Word) (h : c .reports) : Untouched c s (s.report p op) := by
  constructor <;> intros <;> simp_all

theorem untouched_timerStep (hd : c .dt) (hs : c .st) : Untouched c s s.timerStep := by
  constructor <;> intros <;> simp_all

theorem untouched_writeByte (a : Nat) (b : Byte) (h : c (.mem a)) : Untouched c s (s.writeByte a b) := by
  constructor <;> intros <;> try simp
  case mem a' ha => exact State.readByte_writeByte_ne s b fun e => ha (e ▸ h)

theorem untouched_storeBytes (a : Nat) (bs : List Byte)
    (h : ∀ k, k < bs.length → c (.mem (a + k))) : Untouched c s (s.storeBytes a bs) := by
  constructor <;> intros <;> try simp
  case mem a' ha =>
    refine State.readByte_storeBytes_out s a bs a' (Decidable.byContradiction fun hn => ha ?_)
    have := h (a' - a) (by omega)
    rwa [show a + (a' - a) = a' by omega] at this

theorem untouched_loadRegs (base : Nat) {k : Nat} (hk : k < 16)
    (h : ∀ y : Nibble, y.toNat ≤ k → c (.v y)) : Untouched c s (s.loadRegs base k) := by
  constructor <;> intros <;> try simp
  case v y hy => rw [State.getV_loadRegs s base y hk, if_neg fun e => hy (h y e)]

theorem untouched_skipIf (b : Bool) (h : c .pc) : Untouched c s (s.skipIf b) := by
  rw [State.skipIf_eq]; exact untouched_setPc c s _ h

theorem untouched_takeFault (f : FaultCause) (op : Word) (hr : c .run) (hf : c .faultRecord) :
    Untouched c s (s.takeFault f op) := by
  constructor <;> intros <;> simp_all

end

/-! ## Fault entry -/

/-- `raise` answers a next state, and it is the state fault entry leaves (R242). -/
theorem raise_spec (f : FaultCause) (op : Word) (s : State) :
    ∃ t, raise f op s = .next t ∧ FaultedFrom s f op t :=
  ⟨_, rfl, rfl, rfl, rfl, rfl, untouched_takeFault _ s f op (.inl rfl) (.inr rfl)⟩

/-! ## The cycle -/

theorem cycle_of_not_running {s : State} (h : s.run ≠ .running) : cycle s = .next s := by
  simp [cycle, h]

theorem canFetch_iff (s : State) : s.canFetch = true ↔ s.pc.toNat ≤ 0xFFE := by
  simp [State.canFetch]

theorem cycle_of_past_memory {s : State} (hr : s.run = .running) (h : s.pc.toNat > 0xFFE) :
    cycle s = raise .fetchOutOfBounds 0 s := by
  have hf : s.canFetch = false := by simp [State.canFetch]; omega
  simp [cycle, hr, hf]

theorem cycle_of_instr {s : State} {i : Instr} (hr : s.run = .running) (h : s.pc.toNat ≤ 0xFFE)
    (hd : decodeWord s.fetchWord = .instr i) : cycle s = exec i s := by
  simp [cycle, hr, (canFetch_iff s).2 h, execWord, hd]

theorem cycle_of_unknown {s : State} {why : UnknownOpcode} (hr : s.run = .running)
    (h : s.pc.toNat ≤ 0xFFE) (hd : decodeWord s.fetchWord = .unknown why) :
    cycle s = .next (s.advance.report s.pc s.fetchWord) := by
  simp [cycle, hr, (canFetch_iff s).2 h, execWord, hd, execUnknown]

/-- Everything a cycle can be (R240, R273): nothing, a fetch fault, one instruction, or a report. -/
theorem cycle_cases (s : State) :
    (s.run ≠ .running ∧ cycle s = .next s) ∨
    (s.run = .running ∧ s.pc.toNat > 0xFFE ∧ cycle s = raise .fetchOutOfBounds 0 s) ∨
    (s.run = .running ∧ s.pc.toNat ≤ 0xFFE ∧
      ∃ i, decodeWord s.fetchWord = .instr i ∧ cycle s = exec i s) ∨
    (s.run = .running ∧ s.pc.toNat ≤ 0xFFE ∧ ∃ why, decodeWord s.fetchWord = .unknown why ∧
      cycle s = .next (s.advance.report s.pc s.fetchWord)) := by
  by_cases hr : s.run = .running
  · by_cases hp : s.pc.toNat ≤ 0xFFE
    · cases hd : decodeWord s.fetchWord with
      | instr i => exact .inr (.inr (.inl ⟨hr, hp, i, rfl, cycle_of_instr hr hp hd⟩))
      | unknown why => exact .inr (.inr (.inr ⟨hr, hp, why, rfl, cycle_of_unknown hr hp hd⟩))
    · exact .inr (.inl ⟨hr, by omega, cycle_of_past_memory hr (by omega)⟩)
  · exact .inl ⟨hr, cycle_of_not_running hr⟩

end Sys2Proof.Machine
end

