-- ==== Sys2Proof/Laws/Decode.lean ====
section
/-! SUPPORT. The fields of a word put together from its fields (spec/30_encoding.md R71), for each format,
and the two bytes of a word in memory (spec/20_memory.md R53). Fields and words are compared as numbers. -/

namespace Sys2Proof

theorem toNat_append_eq {m n : Nat} (a : BitVec m) (b : BitVec n) :
    (a ++ b).toNat = a.toNat * 2 ^ n + b.toNat := by
  rw [BitVec.toNat_append, ← Nat.shiftLeft_add_eq_or_of_lt b.isLt, Nat.shiftLeft_eq]

section
variable (f x y n : Nibble) (kk : Byte) (nnn : Addr) (op : Word)

/-! ## Words and fields as numbers -/

theorem toNat_wordNNN : (wordNNN f nnn).toNat = f.toNat * 0x1000 + nnn.toNat :=
  toNat_append_eq f nnn

theorem toNat_wordXKK : (wordXKK f x kk).toNat = (f.toNat * 0x10 + x.toNat) * 0x100 + kk.toNat :=
  (toNat_append_eq (f ++ x) kk).trans (by rw [toNat_append_eq]; rfl)

theorem toNat_wordXYN :
    (wordXYN f x y n).toNat = ((f.toNat * 0x10 + x.toNat) * 0x10 + y.toNat) * 0x10 + n.toNat :=
  (toNat_append_eq (f ++ x ++ y) n).trans (by rw [toNat_append_eq, toNat_append_eq]; rfl)

theorem toNat_wordOfBytes (hi lo : Byte) :
    (wordOfBytes hi lo).toNat = hi.toNat * 0x100 + lo.toNat := toNat_append_eq hi lo

theorem toNat_opFamily : (opFamily op).toNat = op.toNat / 0x1000 % 0x10 := by
  simp [opFamily, Nat.shiftRight_eq_div_pow]

theorem toNat_opX : (opX op).toNat = op.toNat / 0x100 % 0x10 := by
  simp [opX, Nat.shiftRight_eq_div_pow]

theorem toNat_opY : (opY op).toNat = op.toNat / 0x10 % 0x10 := by
  simp [opY, Nat.shiftRight_eq_div_pow]

theorem toNat_opN : (opN op).toNat = op.toNat % 0x10 := by
  simp [opN]

theorem toNat_opKK : (opKK op).toNat = op.toNat % 0x100 := by
  simp [opKK]

theorem toNat_opNNN : (opNNN op).toNat = op.toNat % 0x1000 := by
  simp [opNNN]

/-! ## Format NNN -/

@[simp] theorem opFamily_wordNNN : opFamily (wordNNN f nnn) = f := by
  apply BitVec.eq_of_toNat_eq; rw [toNat_opFamily, toNat_wordNNN]; omega

@[simp] theorem opNNN_wordNNN : opNNN (wordNNN f nnn) = nnn := by
  apply BitVec.eq_of_toNat_eq; rw [toNat_opNNN, toNat_wordNNN]; omega

/-! ## Formats XKK and X -/

@[simp] theorem opFamily_wordXKK : opFamily (wordXKK f x kk) = f := by
  apply BitVec.eq_of_toNat_eq; rw [toNat_opFamily, toNat_wordXKK]; omega

@[simp] theorem opX_wordXKK : opX (wordXKK f x kk) = x := by
  apply BitVec.eq_of_toNat_eq; rw [toNat_opX, toNat_wordXKK]; omega

@[simp] theorem opKK_wordXKK : opKK (wordXKK f x kk) = kk := by
  apply BitVec.eq_of_toNat_eq; rw [toNat_opKK, toNat_wordXKK]; omega

/-! ## Formats XY and XYN -/

@[simp] theorem opFamily_wordXYN : opFamily (wordXYN f x y n) = f := by
  apply BitVec.eq_of_toNat_eq; rw [toNat_opFamily, toNat_wordXYN]; omega

@[simp] theorem opX_wordXYN : opX (wordXYN f x y n) = x := by
  apply BitVec.eq_of_toNat_eq; rw [toNat_opX, toNat_wordXYN]; omega

@[simp] theorem opY_wordXYN : opY (wordXYN f x y n) = y := by
  apply BitVec.eq_of_toNat_eq; rw [toNat_opY, toNat_wordXYN]; omega

@[simp] theorem opN_wordXYN : opN (wordXYN f x y n) = n := by
  apply BitVec.eq_of_toNat_eq; rw [toNat_opN, toNat_wordXYN]; omega

/-! ## Masks: they act field by field -/

theorem and_wordNNN (f' : Nibble) (nnn' : Addr) :
    wordNNN f nnn &&& wordNNN f' nnn' = wordNNN (f &&& f') (nnn &&& nnn') :=
  BitVec.and_append

theorem and_wordXKK (f' x' : Nibble) (kk' : Byte) :
    wordXKK f x kk &&& wordXKK f' x' kk' = wordXKK (f &&& f') (x &&& x') (kk &&& kk') :=
  BitVec.and_append.trans (congrArg (· ++ (kk &&& kk')) BitVec.and_append)

theorem and_wordXYN (f' x' y' n' : Nibble) :
    wordXYN f x y n &&& wordXYN f' x' y' n' = wordXYN (f &&& f') (x &&& x') (y &&& y') (n &&& n') :=
  BitVec.and_append.trans (congrArg (· ++ (n &&& n'))
    (BitVec.and_append.trans (congrArg (· ++ (y &&& y')) BitVec.and_append)))

/-! ## Bytes -/

theorem toNat_highByte : (highByte op).toNat = op.toNat / 0x100 := by
  have := op.isLt
  simp [highByte, Nat.shiftRight_eq_div_pow]; omega

theorem toNat_lowByte : (lowByte op).toNat = op.toNat % 0x100 := by
  simp [lowByte]

/-- A word is put together again from its two bytes, so the byte order loses nothing. -/
@[simp] theorem wordOfBytes_bytes : wordOfBytes (highByte op) (lowByte op) = op := by
  apply BitVec.eq_of_toNat_eq
  rw [toNat_wordOfBytes, toNat_highByte, toNat_lowByte]; omega

/-- Two words with the same fields of format XYN are the same, so a word is what its fields say. -/
theorem wordXYN_fields : wordXYN (opFamily op) (opX op) (opY op) (opN op) = op := by
  have := op.isLt
  apply BitVec.eq_of_toNat_eq
  rw [toNat_wordXYN, toNat_opFamily, toNat_opX, toNat_opY, toNat_opN]; omega

theorem wordXKK_fields : wordXKK (opFamily op) (opX op) (opKK op) = op := by
  have := op.isLt
  apply BitVec.eq_of_toNat_eq
  rw [toNat_wordXKK, toNat_opFamily, toNat_opX, toNat_opKK]; omega

theorem wordNNN_fields : wordNNN (opFamily op) (opNNN op) = op := by
  have := op.isLt
  apply BitVec.eq_of_toNat_eq
  rw [toNat_wordNNN, toNat_opFamily, toNat_opNNN]; omega

end

/-! ## The decision tree, family by family (R74) -/

theorem nibble_cases (f : Nibble) :
    f = 0x0 ∨ f = 0x1 ∨ f = 0x2 ∨ f = 0x3 ∨ f = 0x4 ∨ f = 0x5 ∨ f = 0x6 ∨ f = 0x7 ∨
    f = 0x8 ∨ f = 0x9 ∨ f = 0xA ∨ f = 0xB ∨ f = 0xC ∨ f = 0xD ∨ f = 0xE ∨ f = 0xF := by
  revert f; decide

/-- Everything the decoder can answer, by family. -/
theorem decodeWord_cases (op : Word) :
    opFamily op = 0x0 ∧ decodeWord op = decodeFamily0 op ∨
    opFamily op = 0x1 ∧ decodeWord op = .instr (.jp (opNNN op)) ∨
    opFamily op = 0x2 ∧ decodeWord op = .instr (.call (opNNN op)) ∨
    opFamily op = 0x3 ∧ decodeWord op = .instr (.seImm (opX op) (opKK op)) ∨
    opFamily op = 0x4 ∧ decodeWord op = .instr (.sneImm (opX op) (opKK op)) ∨
    opFamily op = 0x5 ∧ decodeWord op = .instr (.seReg (opX op) (opY op)) ∨
    opFamily op = 0x6 ∧ decodeWord op = .instr (.ldImm (opX op) (opKK op)) ∨
    opFamily op = 0x7 ∧ decodeWord op = .instr (.addImm (opX op) (opKK op)) ∨
    opFamily op = 0x8 ∧ decodeWord op = decodeFamily8 op ∨
    opFamily op = 0x9 ∧ decodeWord op = .instr (.sneReg (opX op) (opY op)) ∨
    opFamily op = 0xA ∧ decodeWord op = .instr (.ldI (opNNN op)) ∨
    opFamily op = 0xB ∧ decodeWord op = .instr (.jpV0 (opNNN op)) ∨
    opFamily op = 0xC ∧ decodeWord op = .instr (.rnd (opX op) (opKK op)) ∨
    opFamily op = 0xD ∧ decodeWord op = .instr (.drw (opX op) (opY op) (opN op)) ∨
    opFamily op = 0xE ∧ decodeWord op = decodeFamilyE op ∨
    opFamily op = 0xF ∧ decodeWord op = decodeFamilyF op := by
  rcases nibble_cases (opFamily op) with h | h | h | h | h | h | h | h | h | h | h | h | h | h | h | h <;>
    simp [decodeWord, h]

/-- Everything the family 0x8 can answer (R75). -/
theorem decodeFamily8_cases (op : Word) :
    opN op = 0x0 ∧ decodeFamily8 op = .instr (.ldReg (opX op) (opY op)) ∨
    opN op = 0x1 ∧ decodeFamily8 op = .instr (.orReg (opX op) (opY op)) ∨
    opN op = 0x2 ∧ decodeFamily8 op = .instr (.andReg (opX op) (opY op)) ∨
    opN op = 0x3 ∧ decodeFamily8 op = .instr (.xorReg (opX op) (opY op)) ∨
    opN op = 0x4 ∧ decodeFamily8 op = .instr (.addReg (opX op) (opY op)) ∨
    opN op = 0x5 ∧ decodeFamily8 op = .instr (.sub (opX op) (opY op)) ∨
    opN op = 0x6 ∧ decodeFamily8 op = .instr (.shr (opX op) (opY op)) ∨
    opN op = 0x7 ∧ decodeFamily8 op = .instr (.subn (opX op) (opY op)) ∨
    opN op = 0xE ∧ decodeFamily8 op = .instr (.shl (opX op) (opY op)) ∨
    ((0x8 ≤ (opN op).toNat ∧ (opN op).toNat ≤ 0xD ∨ opN op = 0xF) ∧
      decodeFamily8 op = .unknown .family8) := by
  rcases nibble_cases (opN op) with h | h | h | h | h | h | h | h | h | h | h | h | h | h | h | h <;>
    simp [decodeFamily8, h]

/-- Everything the family 0xF can answer (R74). -/
theorem decodeFamilyF_cases (op : Word) :
    opKK op = 0x07 ∧ decodeFamilyF op = .instr (.ldVxDt (opX op)) ∨
    opKK op = 0x0A ∧ decodeFamilyF op = .instr (.ldVxK (opX op)) ∨
    opKK op = 0x15 ∧ decodeFamilyF op = .instr (.ldDtVx (opX op)) ∨
    opKK op = 0x18 ∧ decodeFamilyF op = .instr (.ldStVx (opX op)) ∨
    opKK op = 0x1E ∧ decodeFamilyF op = .instr (.addIVx (opX op)) ∨
    opKK op = 0x29 ∧ decodeFamilyF op = .instr (.ldFVx (opX op)) ∨
    opKK op = 0x33 ∧ decodeFamilyF op = .instr (.ldBVx (opX op)) ∨
    opKK op = 0x55 ∧ decodeFamilyF op = .instr (.ldMemVx (opX op)) ∨
    opKK op = 0x65 ∧ decodeFamilyF op = .instr (.ldVxMem (opX op)) ∨
    (opKK op ∉ [0x07, 0x0A, 0x15, 0x18, 0x1E, 0x29, 0x33, 0x55, 0x65] ∧
      decodeFamilyF op = .unknown .familyF) := by
  unfold decodeFamilyF
  split_ifs <;> simp_all

end Sys2Proof
end

