-- ==== Sys2Proof/Laws/Display.lean ====
section
/-! SUPPORT. What a draw does, pixel by pixel (spec/43_display.md R191, R192). -/

namespace Sys2Proof.Machine

@[simp] theorem Framebuffer.pixel_clear (x : Fin 64) (y : Fin 32) :
    Framebuffer.clear.pixel x y = false := by
  simp [Framebuffer.clear, Framebuffer.pixel]

/-- Two framebuffers with the same pixels are the same. -/
theorem Framebuffer.ext_pixel {f g : Framebuffer} (h : ∀ x y, f.pixel x y = g.pixel x y) : f = g := by
  apply Vector.ext
  intro y hy
  apply Vector.ext
  intro x hx
  exact h ⟨x, hx⟩ ⟨y, hy⟩

theorem Framebuffer.pixel_toggle (f : Framebuffer) (x x' : Fin 64) (y y' : Fin 32) :
    (f.toggle x y).pixel x' y' =
      if x' = x ∧ y' = y then !f.pixel x y else f.pixel x' y' := by
  unfold Framebuffer.toggle Framebuffer.pixel
  by_cases hy : y' = y
  · subst hy
    by_cases hx : x' = x
    · subst hx; simp
    · have : x.val ≠ x'.val := fun e => hx (Fin.ext e.symm)
      simp [hx, this]
  · have : y.val ≠ y'.val := fun e => hy (Fin.ext e.symm)
    simp [hy, this]

/-- The places a draw toggles, as a list: one for each set bit of the sprite, row by row (R191). -/
def rowPlaces (b : Byte) (x0 y : Nat) : List (Fin 64 × Fin 32) :=
  ((List.range 8).filter fun col => spriteBit b col).map fun col => (wrapColumn (x0 + col), wrapRow y)

/-- The places of all rows of a sprite. -/
def spritePlaces (x0 : Nat) : Nat → List Byte → List (Fin 64 × Fin 32)
  | _, [] => []
  | y, b :: bs => rowPlaces b x0 y ++ spritePlaces x0 (y + 1) bs

/-- A draw is the toggling of its places, one after the other. -/
def drawPlaces (c : Canvas) (ps : List (Fin 64 × Fin 32)) : Canvas :=
  ps.foldl (fun c p => drawPixel c p.1 p.2) c

theorem foldl_if_eq_filter {α β : Type} (f : β → α → β) (p : α → Bool) (l : List α) (b : β) :
    l.foldl (fun b a => if p a then f b a else b) b = (l.filter p).foldl f b := by
  induction l generalizing b with
  | nil => rfl
  | cons a l ih => by_cases h : p a <;> simp [h, ih]

theorem drawRow_eq_places (c : Canvas) (b : Byte) (x0 y : Nat) :
    drawRow c b x0 y = drawPlaces c (rowPlaces b x0 y) := by
  unfold drawRow drawPlaces rowPlaces
  rw [foldl_if_eq_filter, List.foldl_map]

theorem drawSprite_eq_places (c : Canvas) (x0 y : Nat) (bs : List Byte) :
    drawSprite c x0 y bs = drawPlaces c (spritePlaces x0 y bs) := by
  induction bs generalizing c y with
  | nil => rfl
  | cons b bs ih =>
    rw [drawSprite, ih, drawRow_eq_places, spritePlaces]
    simp [drawPlaces, List.foldl_append]

/-- Drawing at distinct places: every place is toggled once, and the collision mark says whether one of
them was lit before. -/
theorem drawPlaces_spec (ps : List (Fin 64 × Fin 32)) (hn : ps.Nodup) (c : Canvas) :
    (∀ x y, (drawPlaces c ps).fb.pixel x y =
      if (x, y) ∈ ps then !c.fb.pixel x y else c.fb.pixel x y) ∧
    (drawPlaces c ps).hit = (c.hit || ps.any fun p => c.fb.pixel p.1 p.2) := by
  induction ps generalizing c with
  | nil => simp [drawPlaces]
  | cons p ps ih =>
    obtain ⟨hp, hn⟩ := List.nodup_cons.1 hn
    obtain ⟨ih1, ih2⟩ := ih hn (drawPixel c p.1 p.2)
    have hstep : drawPlaces c (p :: ps) = drawPlaces (drawPixel c p.1 p.2) ps := rfl
    have hother : ∀ q ∈ ps, (drawPixel c p.1 p.2).fb.pixel q.1 q.2 = c.fb.pixel q.1 q.2 := by
      intro q hq
      have hne : q ≠ p := fun e => hp (e ▸ hq)
      show (c.fb.toggle p.1 p.2).pixel q.1 q.2 = _
      rw [Framebuffer.pixel_toggle, if_neg]
      exact fun h => hne (Prod.ext h.1 h.2)
    refine ⟨fun x y => ?_, ?_⟩
    · rw [hstep, ih1]
      show (if (x, y) ∈ ps then !(c.fb.toggle p.1 p.2).pixel x y else (c.fb.toggle p.1 p.2).pixel x y) = _
      rw [Framebuffer.pixel_toggle]
      by_cases hxy : x = p.1 ∧ y = p.2
      · obtain ⟨rfl, rfl⟩ := hxy
        have : (p.1, p.2) ∉ ps := hp
        simp [this]
      · have hne : (x, y) ≠ p := fun e => hxy ⟨congrArg Prod.fst e, congrArg Prod.snd e⟩
        simp [hxy, hne]
    · rw [hstep, ih2]
      have hany : (ps.any fun q => (drawPixel c p.1 p.2).fb.pixel q.1 q.2)
          = ps.any fun q => c.fb.pixel q.1 q.2 := by
        rw [Bool.eq_iff_iff, List.any_eq_true, List.any_eq_true]
        constructor
        · rintro ⟨q, hq, h⟩; exact ⟨q, hq, by rwa [hother q hq] at h⟩
        · rintro ⟨q, hq, h⟩; exact ⟨q, hq, by rwa [hother q hq]⟩
      have hhit : (drawPixel c p.1 p.2).hit = (c.hit || c.fb.pixel p.1 p.2) := by
        show (c.hit || !(c.fb.toggle p.1 p.2).pixel p.1 p.2) = _
        rw [Framebuffer.pixel_toggle]; simp
      rw [hany, hhit, List.any_cons, Bool.or_assoc]

theorem mem_rowPlaces (b : Byte) (x0 y : Nat) (p : Fin 64 × Fin 32) :
    p ∈ rowPlaces b x0 y ↔
      ∃ col, col < 8 ∧ spriteBit b col = true ∧ p = (wrapColumn (x0 + col), wrapRow y) := by
  simp only [rowPlaces, List.mem_map, List.mem_filter, List.mem_range]
  constructor
  · rintro ⟨col, ⟨h1, h2⟩, rfl⟩; exact ⟨col, h1, h2, rfl⟩
  · rintro ⟨col, h1, h2, rfl⟩; exact ⟨col, ⟨h1, h2⟩, rfl⟩

/-- The places of a sprite: column `x0 + col` and row `y + row`, wrapped, for each set bit (R191). -/
theorem mem_spritePlaces (x0 y : Nat) (bs : List Byte) (p : Fin 64 × Fin 32) :
    p ∈ spritePlaces x0 y bs ↔
      ∃ row col, ∃ h : row < bs.length, col < 8 ∧ spriteBit bs[row] col = true ∧
        p = (wrapColumn (x0 + col), wrapRow (y + row)) := by
  induction bs generalizing y with
  | nil => simp [spritePlaces]
  | cons b bs ih =>
    rw [spritePlaces, List.mem_append, mem_rowPlaces, ih]
    constructor
    · rintro (⟨col, h1, h2, h3⟩ | ⟨row, col, hr, h1, h2, h3⟩)
      · exact ⟨0, col, by simp, h1, h2, h3⟩
      · refine ⟨row + 1, col, by simpa using hr, h1, by simpa using h2, ?_⟩
        rw [h3, Nat.add_assoc, Nat.add_comm 1 row]
    · rintro ⟨row, col, hr, h1, h2, h3⟩
      cases row with
      | zero => exact .inl ⟨col, h1, h2, h3⟩
      | succ row =>
        refine .inr ⟨row, col, by simpa using hr, h1, by simpa using h2, ?_⟩
        rw [h3, Nat.add_assoc, Nat.add_comm 1 row]

/-- No place is toggled twice by a sprite of at most 32 rows (R192). -/
theorem nodup_spritePlaces (x0 y : Nat) (bs : List Byte) (h : bs.length ≤ 32) :
    (spritePlaces x0 y bs).Nodup := by
  induction bs generalizing y with
  | nil => exact List.nodup_nil
  | cons b bs ih =>
    simp only [List.length_cons] at h
    rw [spritePlaces, List.nodup_append]
    refine ⟨?_, ih (y + 1) (by omega), ?_⟩
    · refine List.Nodup.map_on ?_ (List.Nodup.filter _ List.nodup_range)
      intro c hc d hd e
      have hc := List.mem_range.1 (List.mem_filter.1 hc).1
      have hd := List.mem_range.1 (List.mem_filter.1 hd).1
      have e := congrArg (fun p : Fin 64 × Fin 32 => p.1.val) e
      simp only [wrapColumn] at e
      omega
    · intro p hp q hq e
      subst e
      obtain ⟨_, _, _, rfl⟩ := (mem_rowPlaces b x0 y p).1 hp
      obtain ⟨row, col, hr, _, _, e⟩ := (mem_spritePlaces x0 (y + 1) bs _).1 hq
      have e := congrArg (fun p : Fin 64 × Fin 32 => p.2.val) e
      simp only [wrapRow] at e
      omega

end Sys2Proof.Machine
end

