-- ==== Sys2Proof/Laws/PerInstr.lean ====
section
/-! SUPPORT. Statements for all instructions, one lemma per constructor (LAWS.json, "per_instruction").
Coding: the encoder's word carries the fixed bits of the instruction's own row of the opcode table
(spec/opcode_table.json, spec/30_encoding.md R71, R81), and that row stands in the table. -/

namespace Sys2Proof

/-! ## Rows against words put together from fields -/

theorem and_none {w : Nat} (a : BitVec w) : a &&& 0 = 0 := BitVec.and_zero

theorem nibble_and_F (f : Nibble) : f &&& 0xF = f := BitVec.and_allOnes

theorem byte_and_FF (kk : Byte) : kk &&& 0xFF = kk := BitVec.and_allOnes

theorem matches_nnn (f : Nibble) (nnn : Addr) :
    Row.matches ⟨0xF000, wordNNN f 0⟩ (wordNNN f nnn) = true := by
  show (wordNNN f nnn &&& wordNNN 0xF 0 == _) = true
  simp only [and_wordNNN, nibble_and_F, and_none, beq_self_eq_true]

theorem matches_xkk (f x : Nibble) (kk : Byte) :
    Row.matches ⟨0xF000, wordXKK f 0 0⟩ (wordXKK f x kk) = true := by
  show (wordXKK f x kk &&& wordXKK 0xF 0 0 == _) = true
  simp only [and_wordXKK, nibble_and_F, and_none, beq_self_eq_true]

theorem matches_x (f x : Nibble) (kk : Byte) :
    Row.matches ⟨0xF0FF, wordXKK f 0 kk⟩ (wordXKK f x kk) = true := by
  show (wordXKK f x kk &&& wordXKK 0xF 0 0xFF == _) = true
  simp only [and_wordXKK, nibble_and_F, byte_and_FF, and_none, beq_self_eq_true]

theorem matches_xy (f x y n : Nibble) :
    Row.matches ⟨0xF00F, wordXYN f 0 0 n⟩ (wordXYN f x y n) = true := by
  show (wordXYN f x y n &&& wordXYN 0xF 0 0 0xF == _) = true
  simp only [and_wordXYN, nibble_and_F, and_none, beq_self_eq_true]

theorem matches_xyn (f x y n : Nibble) :
    Row.matches ⟨0xF000, wordXYN f 0 0 0⟩ (wordXYN f x y n) = true := by
  show (wordXYN f x y n &&& wordXYN 0xF 0 0 0 == _) = true
  simp only [and_wordXYN, nibble_and_F, and_none, beq_self_eq_true]

/-! ## Rows against any word: the fields a row's mask looks at -/

theorem matches_F000_iff (op : Word) (f : Nibble) :
    Row.matches ⟨0xF000, wordXYN f 0 0 0⟩ op = true ↔ opFamily op = f := by
  constructor
  · intro h
    rw [← wordXYN_fields op] at h
    have e : wordXYN (opFamily op) (opX op) (opY op) (opN op) &&& wordXYN 0xF 0 0 0 =
        wordXYN f 0 0 0 := beq_iff_eq.1 h
    simp only [and_wordXYN, nibble_and_F] at e
    simpa using congrArg opFamily e
  · rintro rfl
    simpa only [wordXYN_fields] using matches_xyn (opFamily op) (opX op) (opY op) (opN op)

theorem matches_F00F_iff (op : Word) (f n : Nibble) :
    Row.matches ⟨0xF00F, wordXYN f 0 0 n⟩ op = true ↔ opFamily op = f ∧ opN op = n := by
  constructor
  · intro h
    rw [← wordXYN_fields op] at h
    have e : wordXYN (opFamily op) (opX op) (opY op) (opN op) &&& wordXYN 0xF 0 0 0xF =
        wordXYN f 0 0 n := beq_iff_eq.1 h
    simp only [and_wordXYN, nibble_and_F] at e
    exact ⟨by simpa using congrArg opFamily e,
      by simpa using congrArg opN e⟩
  · rintro ⟨rfl, rfl⟩
    simpa only [wordXYN_fields] using matches_xy (opFamily op) (opX op) (opY op) (opN op)

theorem matches_F0FF_iff (op : Word) (f : Nibble) (kk : Byte) :
    Row.matches ⟨0xF0FF, wordXKK f 0 kk⟩ op = true ↔ opFamily op = f ∧ opKK op = kk := by
  constructor
  · intro h
    rw [← wordXKK_fields op] at h
    have e : wordXKK (opFamily op) (opX op) (opKK op) &&& wordXKK 0xF 0 0xFF =
        wordXKK f 0 kk := beq_iff_eq.1 h
    simp only [and_wordXKK, nibble_and_F, byte_and_FF] at e
    exact ⟨by simpa using congrArg opFamily e,
      by simpa using congrArg opKK e⟩
  · rintro ⟨rfl, rfl⟩
    simpa only [wordXKK_fields] using matches_x (opFamily op) (opX op) (opKK op)

/-! ## Coding -/

/-- The instruction is well formed, and its encoding is a word of its row. -/
def Laws.Coding.Statement (i : Instr) : Prop :=
  i.wellFormed = true ∧ i.row.matches (encode i) = true

theorem Laws.Coding.cls : Laws.Coding.Statement (.cls) :=
  ⟨rfl, rfl⟩

theorem Laws.Coding.ret : Laws.Coding.Statement (.ret) :=
  ⟨rfl, rfl⟩

theorem Laws.Coding.jp (nnn : Addr) : Laws.Coding.Statement (.jp nnn) :=
  ⟨rfl, matches_nnn 0x1 nnn⟩

theorem Laws.Coding.call (nnn : Addr) : Laws.Coding.Statement (.call nnn) :=
  ⟨rfl, matches_nnn 0x2 nnn⟩

theorem Laws.Coding.seImm (x : Nibble) (kk : Byte) : Laws.Coding.Statement (.seImm x kk) :=
  ⟨rfl, matches_xkk 0x3 x kk⟩

theorem Laws.Coding.sneImm (x : Nibble) (kk : Byte) : Laws.Coding.Statement (.sneImm x kk) :=
  ⟨rfl, matches_xkk 0x4 x kk⟩

theorem Laws.Coding.seReg (x y : Nibble) : Laws.Coding.Statement (.seReg x y) :=
  ⟨rfl, matches_xyn 0x5 x y 0x0⟩

theorem Laws.Coding.ldImm (x : Nibble) (kk : Byte) : Laws.Coding.Statement (.ldImm x kk) :=
  ⟨rfl, matches_xkk 0x6 x kk⟩

theorem Laws.Coding.addImm (x : Nibble) (kk : Byte) : Laws.Coding.Statement (.addImm x kk) :=
  ⟨rfl, matches_xkk 0x7 x kk⟩

theorem Laws.Coding.ldReg (x y : Nibble) : Laws.Coding.Statement (.ldReg x y) :=
  ⟨rfl, matches_xy 0x8 x y 0x0⟩

theorem Laws.Coding.orReg (x y : Nibble) : Laws.Coding.Statement (.orReg x y) :=
  ⟨rfl, matches_xy 0x8 x y 0x1⟩

theorem Laws.Coding.andReg (x y : Nibble) : Laws.Coding.Statement (.andReg x y) :=
  ⟨rfl, matches_xy 0x8 x y 0x2⟩

theorem Laws.Coding.xorReg (x y : Nibble) : Laws.Coding.Statement (.xorReg x y) :=
  ⟨rfl, matches_xy 0x8 x y 0x3⟩

theorem Laws.Coding.addReg (x y : Nibble) : Laws.Coding.Statement (.addReg x y) :=
  ⟨rfl, matches_xy 0x8 x y 0x4⟩

theorem Laws.Coding.sub (x y : Nibble) : Laws.Coding.Statement (.sub x y) :=
  ⟨rfl, matches_xy 0x8 x y 0x5⟩

theorem Laws.Coding.shr (x y : Nibble) : Laws.Coding.Statement (.shr x y) :=
  ⟨rfl, matches_xy 0x8 x y 0x6⟩

theorem Laws.Coding.subn (x y : Nibble) : Laws.Coding.Statement (.subn x y) :=
  ⟨rfl, matches_xy 0x8 x y 0x7⟩

theorem Laws.Coding.shl (x y : Nibble) : Laws.Coding.Statement (.shl x y) :=
  ⟨rfl, matches_xy 0x8 x y 0xE⟩

theorem Laws.Coding.sneReg (x y : Nibble) : Laws.Coding.Statement (.sneReg x y) :=
  ⟨rfl, matches_xyn 0x9 x y 0x0⟩

theorem Laws.Coding.ldI (nnn : Addr) : Laws.Coding.Statement (.ldI nnn) :=
  ⟨rfl, matches_nnn 0xA nnn⟩

theorem Laws.Coding.jpV0 (nnn : Addr) : Laws.Coding.Statement (.jpV0 nnn) :=
  ⟨rfl, matches_nnn 0xB nnn⟩

theorem Laws.Coding.rnd (x : Nibble) (kk : Byte) : Laws.Coding.Statement (.rnd x kk) :=
  ⟨rfl, matches_xkk 0xC x kk⟩

theorem Laws.Coding.drw (x y n : Nibble) : Laws.Coding.Statement (.drw x y n) :=
  ⟨rfl, matches_xyn 0xD x y n⟩

theorem Laws.Coding.skp (x : Nibble) : Laws.Coding.Statement (.skp x) :=
  ⟨rfl, matches_x 0xE x 0x9E⟩

theorem Laws.Coding.sknp (x : Nibble) : Laws.Coding.Statement (.sknp x) :=
  ⟨rfl, matches_x 0xE x 0xA1⟩

theorem Laws.Coding.ldVxDt (x : Nibble) : Laws.Coding.Statement (.ldVxDt x) :=
  ⟨rfl, matches_x 0xF x 0x07⟩

theorem Laws.Coding.ldVxK (x : Nibble) : Laws.Coding.Statement (.ldVxK x) :=
  ⟨rfl, matches_x 0xF x 0x0A⟩

theorem Laws.Coding.ldDtVx (x : Nibble) : Laws.Coding.Statement (.ldDtVx x) :=
  ⟨rfl, matches_x 0xF x 0x15⟩

theorem Laws.Coding.ldStVx (x : Nibble) : Laws.Coding.Statement (.ldStVx x) :=
  ⟨rfl, matches_x 0xF x 0x18⟩

theorem Laws.Coding.addIVx (x : Nibble) : Laws.Coding.Statement (.addIVx x) :=
  ⟨rfl, matches_x 0xF x 0x1E⟩

theorem Laws.Coding.ldFVx (x : Nibble) : Laws.Coding.Statement (.ldFVx x) :=
  ⟨rfl, matches_x 0xF x 0x29⟩

theorem Laws.Coding.ldBVx (x : Nibble) : Laws.Coding.Statement (.ldBVx x) :=
  ⟨rfl, matches_x 0xF x 0x33⟩

theorem Laws.Coding.ldMemVx (x : Nibble) : Laws.Coding.Statement (.ldMemVx x) :=
  ⟨rfl, matches_x 0xF x 0x55⟩

theorem Laws.Coding.ldVxMem (x : Nibble) : Laws.Coding.Statement (.ldVxMem x) :=
  ⟨rfl, matches_x 0xF x 0x65⟩

end Sys2Proof
end

