-- ==== Sys2Proof/Laws/Transactions.lean ====
section
/-! SUPPORT. What the host's transactions do to the state, each said once, so that no later proof
unfolds one. -/

namespace Sys2Proof.Machine

/-! ## The loads -/

theorem State.loadFont_rejected (s : State) {offset : Nat} (h : offset > maxFontOffset) :
    s.loadFont offset = s := if_pos h

theorem State.loadFont_accepted (s : State) {offset : Nat} (h : offset ≤ maxFontOffset) :
    s.loadFont offset = (s.storeBytes offset fontGlyphs).setFontBase (BitVec.ofNat 12 offset) :=
  if_neg (Nat.not_lt.2 h)

theorem State.loadRom_rejected (s : State) {bytes : List Byte} (h : bytes.length > maxRomLength) :
    s.loadRom bytes = s := if_pos h

theorem State.loadRom_accepted (s : State) {bytes : List Byte} (h : bytes.length ≤ maxRomLength) :
    s.loadRom bytes = s.storeBytes programBase bytes := if_neg (Nat.not_lt.2 h)

/-- A font load touches the base and memory, and nothing else. -/
theorem untouched_loadFont (c : Piece → Prop) (s : State) (offset : Nat) (hf : c .fontBase)
    (hm : ∀ k, k < 80 → c (.mem (offset + k))) : Untouched c s (s.loadFont offset) := by
  by_cases h : offset ≤ maxFontOffset
  · rw [State.loadFont_accepted s h]
    exact (untouched_storeBytes c s offset fontGlyphs fun k hk => hm k (by simpa using hk)).trans
      (untouched_setFontBase c _ _ hf)
  · rw [State.loadFont_rejected s (Nat.not_le.1 h)]; exact Untouched.refl c s

theorem untouched_loadRom (c : Piece → Prop) (s : State) (bytes : List Byte)
    (hm : ∀ k, k < bytes.length → c (.mem (programBase + k))) : Untouched c s (s.loadRom bytes) := by
  by_cases h : bytes.length ≤ maxRomLength
  · rw [State.loadRom_accepted s h]; exact untouched_storeBytes c s programBase bytes hm
  · rw [State.loadRom_rejected s (Nat.not_le.1 h)]; exact Untouched.refl c s

theorem State.fontBase_loadFont (s : State) {offset : Nat} (h : offset ≤ maxFontOffset) :
    (s.loadFont offset).fontBase.toNat = offset := by
  rw [State.loadFont_accepted s h]
  simp only [maxFontOffset] at h
  rw [State.setFontBase_fontBase, BitVec.toNat_ofNat]; omega

theorem State.wf_loadFont (s : State) (offset : Nat) (h : s.mem.wf = true) :
    (s.loadFont offset).mem.wf = true := by
  by_cases ho : offset ≤ maxFontOffset
  · rw [State.loadFont_accepted s ho]
    rw [State.setFontBase_mem]
    refine State.wf_storeBytes s offset fontGlyphs ?_ h
    simp only [maxFontOffset, length_fontGlyphs, memSize] at *; omega
  · rwa [State.loadFont_rejected s (Nat.not_le.1 ho)]

theorem State.wf_loadRom (s : State) (bytes : List Byte) (h : s.mem.wf = true) :
    (s.loadRom bytes).mem.wf = true := by
  by_cases ho : bytes.length ≤ maxRomLength
  · rw [State.loadRom_accepted s ho]
    refine State.wf_storeBytes s programBase bytes ?_ h
    simp only [maxRomLength, programBase, memSize] at *; omega
  · rwa [State.loadRom_rejected s (Nat.not_le.1 ho)]

/-! ## Start and reset -/

theorem State.start_cases (s : State) :
    (s.run = .stopped ∧ s.start = s.setRun .running) ∨ (s.run ≠ .stopped ∧ s.start = s) := by
  by_cases h : s.run = .stopped
  · exact .inl ⟨h, if_pos h⟩
  · exact .inr ⟨h, if_neg h⟩

/-! ## The tick -/

theorem tickOf_of_not_running (n : Nat) {s : State} (h : s.run ≠ .running) :
    tickOf n s = .next s := if_neg h

theorem tickOf_of_running (n : Nat) {s : State} (h : s.run = .running) :
    tickOf n s = runFrame n s := if_pos h

/-- A property that every cycle and the timer step keep is kept by a tick. -/
theorem tickOf_keeps {P : State → Prop} (hc : ∀ s t, P s → cycle s = .next t → P t)
    (ht : ∀ s, P s → P s.timerStep) (n : Nat) {s t : State} (hs : P s) (h : tickOf n s = .next t) :
    P t := by
  have frame : ∀ n s t, P s → runFrame n s = .next t → P t := by
    intro n
    induction n with
    | zero => intro s t hs h; cases h; exact ht s hs
    | succ n ih =>
      intro s t hs h
      simp only [runFrame] at h
      split at h
      case h_1 u hu =>
        split at h
        · exact ih u t (hc s u hs hu) h
        · cases h; exact hc s _ hs hu
      case h_2 r _ => cases r
      case h_3 => cases h
  by_cases hr : s.run = .running
  · rw [tickOf_of_running n hr] at h; exact frame n s t hs h
  · rw [tickOf_of_not_running n hr] at h; cases h; exact hs

/-! ## The step -/

theorem State.pending_of_issued {s : State} {tx : HostTx} {rest : List HostTx}
    (h : s.inbox = tx :: rest) : s.pending = some tx := by simp [State.pending, h]

theorem State.pending_of_empty {s : State} (h : s.inbox = []) : s.pending = s.standing := by
  simp [State.pending, h]

theorem State.takeIssued_of_issued {s : State} {tx : HostTx} {rest : List HostTx}
    (h : s.inbox = tx :: rest) : s.takeIssued = { s with inbox := rest } := by
  simp [State.takeIssued, h]

theorem State.takeIssued_of_empty {s : State} (h : s.inbox = []) : s.takeIssued = s := by
  cases s; simp only at h; subst h; rfl

theorem untouched_takeIssued (c : Piece → Prop) (s : State) (h : c .inbox) :
    Untouched c s s.takeIssued := by
  constructor <;> intros <;> simp_all

theorem step_of_none {s : State} (h : s.pending = none) : step s = .next s := by
  simp [step, State.nextEvent, h]

theorem step_of_pending {s : State} {tx : HostTx} (h : s.pending = some tx) :
    step s = tx.perform s.takeIssued := by
  simp [step, State.nextEvent, h]

/-- Everything a step can be: nothing, or the pending transaction. -/
theorem step_cases (s : State) :
    (s.pending = none ∧ step s = .next s) ∨
    ∃ tx, s.pending = some tx ∧ step s = tx.perform s.takeIssued := by
  cases h : s.pending with
  | none => exact .inl ⟨rfl, step_of_none h⟩
  | some tx => exact .inr ⟨tx, rfl, step_of_pending h⟩

end Sys2Proof.Machine
end

