-- ==== Sys2Proof/Tests/Slice0.lean ====
section
/-! SUPPORT. Tests of the model on fixed values, and witnesses for the hypotheses of the statements. The
expected results come from spec/95_test_vectors.md (a comment gives the vector's number) or are written
out by hand from the rule named. -/

namespace Sys2Proof.Tests

open Sys2Proof.Machine

/-! ## Helpers -/

/-- The "Start" of spec/95_test_vectors.md: the reset state, Running, with a host that issues `Cycle()`
over and over. -/
def start : State := { State.reset with run := .running, standing := some .cycle }

/-- One step that fetches the word `w` at pc answers a next state with the property. -/
def runs (w : Nat) (s : State) (p : State → Bool) : Bool :=
  match step (s.withFetchWord 16 w) with
  | .next t => p t
  | .fault _ => false
  | .refused _ => false

/-- The same for a result at hand. -/
def gives (r : Result) (p : State → Bool) : Bool :=
  match r with
  | .next t => p t
  | .fault _ => false
  | .refused _ => false

/-- The fault record and the run state after a fault at `pc`, which stays there (R242). -/
def faulted (c : FaultCause) (pc op : Word) (t : State) : Bool :=
  t.run == .faulted && t.faultCause == c && t.faultPc == pc && t.faultOpcode == op && t.pc == pc

/-- Every key pressed. -/
def allKeys (s : State) : State := { s with key := Vector.replicate 16 true }

/-- The pixels of a row that are on, from the left. -/
def litInRow (s : State) (y : Fin 32) : List Nat :=
  ((List.finRange 64).filter fun x => s.fb.pixel x y).map Fin.val

/-- One pixel turned on. -/
def lit (s : State) (x : Fin 64) (y : Fin 32) : State := s.setFb (s.fb.toggle x y)

/-! ## WellFormed (R80, R82): each reason a word is ill formed, and what is well formed -/

theorem test_ill_formed_family0 : wellFormedWord 0x0000 = false := by decide
theorem test_ill_formed_family0_call : wellFormedWord 0x0123 = false := by decide
theorem test_ill_formed_family8 :
    ([0x8008, 0x8009, 0x800A, 0x800B, 0x800C, 0x800D, 0x800F] : List Word).all
      (fun w => !wellFormedWord w) = true := by decide
theorem test_ill_formed_familyE : wellFormedWord 0xE09F = false := by decide
theorem test_ill_formed_familyF : wellFormedWord 0xF000 = false := by decide
theorem test_ill_formed_all_ones : wellFormedWord 0xFFFF = false := by decide
theorem test_well_formed_cls_ignores_nibble : wellFormedWord 0x01E0 = true := by decide
theorem test_well_formed_all_rows : (opcodeTable.all fun r => wellFormedWord r.pattern) = true := by
  decide
theorem test_table_has_34_rows : opcodeTable.length = 34 ∧ opcodeTable.Nodup := by decide
theorem test_instruction_well_formed : (Instr.drw 0xF 0xF 0xF).wellFormed = true := by decide

/-! ## Decode: one word of every constructor, spelled from the patterns of R74 -/

theorem test_decode_cls : decodeWord 0x00E0 = .instr .cls := by decide
theorem test_decode_cls_ignored_bits : decodeWord 0x01E0 = .instr .cls := by decide
theorem test_decode_ret : decodeWord 0x00EE = .instr .ret := by decide
theorem test_decode_jp : decodeWord 0x1ABC = .instr (.jp 0xABC) := by decide
theorem test_decode_call : decodeWord 0x2345 = .instr (.call 0x345) := by decide
theorem test_decode_se_imm : decodeWord 0x3105 = .instr (.seImm 0x1 0x05) := by decide
theorem test_decode_sne_imm : decodeWord 0x4FA7 = .instr (.sneImm 0xF 0xA7) := by decide
theorem test_decode_se_reg : decodeWord 0x5121 = .instr (.seReg 0x1 0x2) := by decide
theorem test_decode_ld_imm : decodeWord 0x6A7F = .instr (.ldImm 0xA 0x7F) := by decide
theorem test_decode_add_imm : decodeWord 0x730A = .instr (.addImm 0x3 0x0A) := by decide
theorem test_decode_ld_reg : decodeWord 0x8120 = .instr (.ldReg 0x1 0x2) := by decide
theorem test_decode_or : decodeWord 0x8121 = .instr (.orReg 0x1 0x2) := by decide
theorem test_decode_and : decodeWord 0x8122 = .instr (.andReg 0x1 0x2) := by decide
theorem test_decode_xor : decodeWord 0x8123 = .instr (.xorReg 0x1 0x2) := by decide
theorem test_decode_add_reg : decodeWord 0x8F14 = .instr (.addReg 0xF 0x1) := by decide
theorem test_decode_sub : decodeWord 0x81F5 = .instr (.sub 0x1 0xF) := by decide
theorem test_decode_shr : decodeWord 0x8126 = .instr (.shr 0x1 0x2) := by decide
theorem test_decode_subn : decodeWord 0x8127 = .instr (.subn 0x1 0x2) := by decide
theorem test_decode_shl : decodeWord 0x8A5E = .instr (.shl 0xA 0x5) := by decide
theorem test_decode_sne_reg : decodeWord 0x9AB7 = .instr (.sneReg 0xA 0xB) := by decide
theorem test_decode_ld_i : decodeWord 0xA123 = .instr (.ldI 0x123) := by decide
theorem test_decode_jp_v0 : decodeWord 0xBFFF = .instr (.jpV0 0xFFF) := by decide
theorem test_decode_rnd : decodeWord 0xC50F = .instr (.rnd 0x5 0x0F) := by decide
theorem test_decode_drw : decodeWord 0xD125 = .instr (.drw 0x1 0x2 0x5) := by decide
theorem test_decode_skp : decodeWord 0xE19E = .instr (.skp 0x1) := by decide
theorem test_decode_sknp : decodeWord 0xE1A1 = .instr (.sknp 0x1) := by decide
theorem test_decode_ld_vx_dt : decodeWord 0xF407 = .instr (.ldVxDt 0x4) := by decide
theorem test_decode_ld_vx_k : decodeWord 0xF30A = .instr (.ldVxK 0x3) := by decide
theorem test_decode_ld_dt_vx : decodeWord 0xF015 = .instr (.ldDtVx 0x0) := by decide
theorem test_decode_ld_st_vx : decodeWord 0xF218 = .instr (.ldStVx 0x2) := by decide
theorem test_decode_add_i_vx : decodeWord 0xF01E = .instr (.addIVx 0x0) := by decide
theorem test_decode_ld_f_vx : decodeWord 0xF029 = .instr (.ldFVx 0x0) := by decide
theorem test_decode_ld_b_vx : decodeWord 0xF033 = .instr (.ldBVx 0x0) := by decide
theorem test_decode_ld_mem_vx : decodeWord 0xF355 = .instr (.ldMemVx 0x3) := by decide
theorem test_decode_ld_vx_mem : decodeWord 0xF165 = .instr (.ldVxMem 0x1) := by decide
theorem test_decode_unknown :
    decodeWord 0x0123 = .unknown .family0 ∧ decodeWord 0x800F = .unknown .family8 ∧
    decodeWord 0xE09F = .unknown .familyE ∧ decodeWord 0xFFFF = .unknown .familyF := by decide
/-- R53: the byte at the lower address is the high one. -/
theorem test_decode_bytes_big_endian : decodeBytes 0x12 0x34 = .instr (.jp 0x234) := by decide
theorem test_decode_table_word :
    decodeTableWord 16 0xD125 = some (.drw 0x1 0x2 0x5) ∧ decodeTableWord 16 0xFFFF = none := by decide
theorem test_encode_ignored_bits_zero :
    encode (.seReg 0x1 0x2) = 0x5120 ∧ encode (.shl 0xA 0x5) = 0x8A5E := by decide

/-! ## Control flow (vectors C1 to C18) -/

theorem test_jp : runs 0x1ABC start (fun t => t.pc == 0xABC) = true := by decide
/-- C2. -/
theorem test_call : runs 0x2300 start (fun t => t.stack == [0x202] && t.pc == 0x300) = true := by decide
/-- C5. -/
theorem test_call_full_stack :
    runs 0x2300 { start with stack := List.replicate 16 0x202 } (fun t =>
      faulted .stackOverflow 0x200 0x2300 t && t.sp == 16) = true := by decide
/-- C3. -/
theorem test_ret :
    runs 0x00EE { start with pc := 0x300, stack := [0x204, 0x202] } (fun t =>
      t.pc == 0x202 && t.stack == [0x204]) = true := by decide
/-- C4. -/
theorem test_ret_empty_stack :
    runs 0x00EE start (fun t => t.pc == 0x202 && t.reports == [] && t.run == .running) = true := by
  decide
/-- C6. -/
theorem test_jp_v0 : runs 0xB300 (start.setV 0 0x10) (fun t => t.pc == 0x310) = true := by decide
/-- C7. -/
theorem test_jp_v0_past_memory :
    runs 0xBFFF (start.setV 0 0xFF) (fun t => t.pc == 0x10FE && t.run == .running
      && gives (step t) (faulted .fetchOutOfBounds 0x10FE 0)) = true := by decide
/-- C8, C9. -/
theorem test_se_imm :
    runs 0x3105 (start.setV 1 5) (fun t => t.pc == 0x204) = true ∧
    runs 0x3105 (start.setV 1 6) (fun t => t.pc == 0x202) = true := by decide
/-- C16. -/
theorem test_se_imm_past_memory :
    runs 0x3000 (start.setPc 0xFFC) (fun t => t.pc == 0x1000 && t.run == .running
      && gives (step t) (faulted .fetchOutOfBounds 0x1000 0)) = true := by decide
/-- C10, C11. -/
theorem test_sne_imm :
    runs 0x4105 (start.setV 1 5) (fun t => t.pc == 0x202) = true ∧
    runs 0x4105 (start.setV 1 6) (fun t => t.pc == 0x204) = true := by decide
/-- C13. -/
theorem test_se_reg :
    runs 0x5121 ((start.setV 1 3).setV 2 3) (fun t => t.pc == 0x204) = true := by decide
/-- C14, C15. -/
theorem test_sne_reg :
    runs 0x9120 ((start.setV 1 3).setV 2 4) (fun t => t.pc == 0x204) = true ∧
    runs 0x9120 ((start.setV 1 3).setV 2 3) (fun t => t.pc == 0x202) = true := by decide

/-! ## Fetch (vectors C17, C18, S11) -/

/-- C17. -/
theorem test_fetch_past_memory :
    gives (step (start.setPc 0xFFF)) (faulted .fetchOutOfBounds 0xFFF 0) = true := by decide
/-- C18. -/
theorem test_fetch_at_last_word :
    runs 0x6042 (start.setPc 0xFFE) (fun t =>
      t.getV 0 == 0x42 && t.pc == 0x1000 && t.run == .running) = true := by decide
/-- S11, E1. -/
theorem test_unknown_opcode :
    runs 0xFFFF start (fun t => t.pc == 0x202 && t.run == .running
      && t.reports == [⟨.unknownOpcode, 0x200, 0xFFFF⟩]) = true := by decide

/-! ## Registers and the ALU (vectors A1 to A36) -/

/-- A1. -/
theorem test_ld_imm : runs 0x6A7F start (fun t => t.getV 0xA == 0x7F && t.pc == 0x202) = true := by
  decide
/-- A2. -/
theorem test_add_imm_wraps :
    runs 0x730A ((start.setV 3 0xFA).setV 0xF 1) (fun t =>
      t.getV 3 == 0x04 && t.getV 0xF == 1) = true := by decide
/-- A3. -/
theorem test_add_imm_on_vf :
    runs 0x7F01 (start.setV 0xF 0xFF) (fun t => t.getV 0xF == 0) = true := by decide
/-- A4. -/
theorem test_ld_reg : runs 0x8120 (start.setV 2 0x5A) (fun t => t.getV 1 == 0x5A) = true := by decide
/-- A5. -/
theorem test_or :
    runs 0x8121 (((start.setV 1 0xF0).setV 2 0x0F).setV 0xF 7) (fun t =>
      t.getV 1 == 0xFF && t.getV 0xF == 7) = true := by decide
/-- A6. -/
theorem test_and :
    runs 0x8122 ((start.setV 1 0xF0).setV 2 0x3C) (fun t => t.getV 1 == 0x30) = true := by decide
/-- A7, A8. -/
theorem test_xor :
    runs 0x8123 ((start.setV 1 0xFF).setV 2 0x0F) (fun t => t.getV 1 == 0xF0) = true ∧
    runs 0x8113 (start.setV 1 0x5A) (fun t => t.getV 1 == 0) = true := by decide
/-- A9, A10, A11. -/
theorem test_add_reg :
    runs 0x8124 ((start.setV 1 0xFF).setV 2 1) (fun t => t.getV 1 == 0 && t.getV 0xF == 1) = true ∧
    runs 0x8124 ((start.setV 1 0x7F).setV 2 0x80) (fun t =>
      t.getV 1 == 0xFF && t.getV 0xF == 0) = true ∧
    runs 0x8114 (start.setV 1 0x80) (fun t => t.getV 1 == 0 && t.getV 0xF == 1) = true := by decide
/-- A12, A13, A14. -/
theorem test_add_reg_with_vf :
    runs 0x8F14 ((start.setV 0xF 0xF0).setV 1 0x20) (fun t => t.getV 0xF == 0x10) = true ∧
    runs 0x81F4 ((start.setV 1 0x10).setV 0xF 0xF5) (fun t =>
      t.getV 1 == 0x05 && t.getV 0xF == 1) = true ∧
    runs 0x8FF4 (start.setV 0xF 0x90) (fun t => t.getV 0xF == 0x20) = true := by decide
/-- A15, A16. -/
theorem test_sub :
    runs 0x8125 ((start.setV 1 7).setV 2 7) (fun t => t.getV 1 == 0 && t.getV 0xF == 1) = true ∧
    runs 0x8125 (start.setV 2 1) (fun t => t.getV 1 == 0xFF && t.getV 0xF == 0) = true := by decide
/-- A17, A18, A19. -/
theorem test_sub_with_vf :
    runs 0x8F15 ((start.setV 0xF 5).setV 1 3) (fun t => t.getV 0xF == 0xFE) = true ∧
    runs 0x81F5 ((start.setV 1 5).setV 0xF 3) (fun t =>
      t.getV 1 == 4 && t.getV 0xF == 1) = true ∧
    runs 0x8FF5 (start.setV 0xF 9) (fun t => t.getV 0xF == 0) = true := by decide
/-- A20, A21. -/
theorem test_shr :
    runs 0x8106 (start.setV 1 0xFF) (fun t => t.getV 1 == 0x7F && t.getV 0xF == 1) = true ∧
    runs 0x8126 ((start.setV 1 2).setV 2 0xFF) (fun t =>
      t.getV 1 == 1 && t.getV 0xF == 0) = true := by decide
/-- A22, A23. -/
theorem test_shr_vf :
    runs 0x8F06 (start.setV 0xF 3) (fun t => t.getV 0xF == 0) = true ∧
    runs 0x8FF6 (start.setV 0xF 3) (fun t => t.getV 0xF == 0) = true := by decide
/-- A24, A25. -/
theorem test_subn :
    runs 0x8127 ((start.setV 1 3).setV 2 0x0A) (fun t => t.getV 1 == 7 && t.getV 0xF == 1) = true ∧
    runs 0x8127 ((start.setV 1 0x10).setV 2 3) (fun t =>
      t.getV 1 == 0xF3 && t.getV 0xF == 0) = true := by decide
/-- A26, A27, A28. -/
theorem test_subn_with_vf :
    runs 0x8F17 ((start.setV 0xF 3).setV 1 0x0A) (fun t => t.getV 0xF == 9) = true ∧
    runs 0x81F7 ((start.setV 1 3).setV 0xF 0x0A) (fun t =>
      t.getV 1 == 0xFE && t.getV 0xF == 1) = true ∧
    runs 0x8FF7 (start.setV 0xF 9) (fun t => t.getV 0xF == 0) = true := by decide
/-- A29, A30. -/
theorem test_shl :
    runs 0x810E (start.setV 1 0x7F) (fun t => t.getV 1 == 0xFE && t.getV 0xF == 0) = true ∧
    runs 0x810E (start.setV 1 0x81) (fun t => t.getV 1 == 2 && t.getV 0xF == 1) = true := by decide
/-- A31, A32, A33. -/
theorem test_shl_vf :
    runs 0x8F0E (start.setV 0xF 0x80) (fun t => t.getV 0xF == 2) = true ∧
    runs 0x8F0E (start.setV 0xF 0x40) (fun t => t.getV 0xF == 0) = true ∧
    runs 0x8FFE (start.setV 0xF 0xC0) (fun t => t.getV 0xF == 2) = true := by decide
/-- A34: whatever the draw, nothing is left under a mask of 0. -/
theorem test_rnd_masked_to_zero : ∃ t, exec (.rnd 5 0x00) start = .next t ∧ t.getV 5 = 0 :=
  ⟨_, rfl, by simp⟩
/-- A36, and the next draw is a new one (R143). -/
theorem test_rnd_takes_a_draw :
    ∃ t, exec (.rnd 5 0xFF) start = .next t ∧ t.getV 5 = Config.randomByte 0 ∧ t.draws = 1 := by
  refine ⟨_, rfl, ?_, rfl⟩
  have h : ∀ b : Byte, b &&& 0xFF = b := by decide
  rw [State.getV_setV_same]; exact h _

/-! ## The index register and memory (vectors M1 to M17) -/

/-- M1. -/
theorem test_ld_i : runs 0xA123 start (fun t => t.i == 0x123) = true := by decide
/-- M2, M3. -/
theorem test_add_i_vx :
    runs 0xF01E (((start.setI 0xFFF).setV 0 1).setV 0xF 7) (fun t =>
      t.i == 0x1000 && t.getV 0xF == 7 && t.run == .running) = true ∧
    runs 0xF01E ((start.setI 0xFFFF).setV 0 2) (fun t => t.i == 1) = true := by decide
/-- M4, M5, M6. -/
theorem test_ld_f_vx :
    runs 0xF029 (start.setV 0 0x0A) (fun t => t.i == 0x032) = true ∧
    runs 0xF029 (start.setV 0 0x10) (fun t => t.i == 0x050) = true ∧
    runs 0xF029 ((start.setFontBase 0x100).setV 0 0xFF) (fun t => t.i == 0x5FB) = true := by decide
/-- M7, M9, M10. -/
theorem test_ld_b_vx :
    runs 0xF033 ((start.setI 0x300).setV 0 157) (fun t =>
      t.loadBytes 0x300 3 == [1, 5, 7] && t.i == 0x300) = true ∧
    runs 0xF033 ((start.setI 0x300).setV 0 255) (fun t => t.loadBytes 0x300 3 == [2, 5, 5]) = true ∧
    runs 0xF033 ((start.setI 0xFFD).setV 0 7) (fun t =>
      t.loadBytes 0xFFD 3 == [0, 0, 7] && t.run == .running) = true := by decide
/-- M11. -/
theorem test_ld_b_vx_out_of_bounds :
    runs 0xF033 ((start.setI 0xFFE).setV 0 1) (fun t =>
      faulted .memoryOutOfBounds 0x200 0xF033 t && t.loadBytes 0xFFE 2 == [0, 0]) = true := by decide
/-- M14, M12. -/
theorem test_ld_mem_vx :
    runs 0xF355 (((((start.setI 0x400).setV 0 1).setV 1 2).setV 2 3).setV 3 4) (fun t =>
      t.loadBytes 0x400 5 == [1, 2, 3, 4, 0] && t.i == 0x400) = true ∧
    runs 0xFF55 ((start.setI 0xFF0).setV 0xF 9) (fun t =>
      t.readByte 0xFFF == 9 && t.run == .running) = true := by decide
/-- M13. -/
theorem test_ld_mem_vx_out_of_bounds :
    runs 0xFF55 ((start.setI 0xFF1).setV 0 9) (fun t =>
      faulted .memoryOutOfBounds 0x200 0xFF55 t && t.readByte 0xFF1 == 0) = true := by decide
/-- M15, M17. -/
theorem test_ld_vx_mem :
    runs 0xF165 (((start.setI 0x300).storeBytes 0x300 [0, 9]).setV 1 5) (fun t =>
      t.getV 0 == 0 && t.getV 1 == 9 && t.i == 0x300) = true ∧
    runs 0xF065 ((start.setI 0x300).storeBytes 0x300 [0xAA, 0xBB]) (fun t =>
      t.getV 0 == 0xAA && t.getV 1 == 0) = true := by decide
/-- M16, its first and last registers. -/
theorem test_ld_vx_mem_all :
    runs 0xFF65 ((start.setI 0x300).storeBytes 0x300
        [0x10, 0x11, 0x12, 0x13, 0x14, 0x15, 0x16, 0x17, 0x18, 0x19, 0x1A, 0x1B, 0x1C, 0x1D, 0x1E, 0x1F])
      (fun t => t.getV 0 == 0x10 && t.getV 0xE == 0x1E && t.getV 0xF == 0x1F) = true := by decide

/-! ## The display (vectors D1 to D9) -/

/-- D1. -/
theorem test_cls :
    runs 0x00E0 ((lit start 5 3).setV 0xF 7) (fun t =>
      litInRow t 3 == [] && t.getV 0xF == 7) = true := by decide
/-- D2: the glyph 0 of the default font. -/
theorem test_drw_glyph :
    runs 0xD015 start (fun t => litInRow t 0 == [0, 1, 2, 3] && litInRow t 1 == [0, 3]
      && litInRow t 4 == [0, 1, 2, 3] && litInRow t 5 == [] && t.getV 0xF == 0) = true := by decide
/-- D7: both coordinates wrap. -/
theorem test_drw_wraps :
    runs 0xD011 ((((start.setV 0 70).setV 1 40).setI 0x300).writeByte 0x300 0xF0) (fun t =>
      litInRow t 8 == [6, 7, 8, 9] && litInRow t 0 == []) = true := by decide
/-- D8, D9: a collision is a pixel turned off, and a 0 bit leaves its pixel alone. -/
theorem test_drw_collision :
    runs 0xD011 ((lit (start.setI 0x300) 1 0).writeByte 0x300 0xC0) (fun t =>
      litInRow t 0 == [0] && t.getV 0xF == 1) = true ∧
    runs 0xD011 ((lit (start.setI 0x300) 5 0).writeByte 0x300 0xC0) (fun t =>
      litInRow t 0 == [0, 1, 5] && t.getV 0xF == 0) = true := by decide
/-- D3, D4. -/
theorem test_drw_at_the_end :
    runs 0xD010 ((start.setI 0xFFF).setV 0xF 1) (fun t =>
      t.run == .running && t.getV 0xF == 0 && t.pc == 0x202) = true ∧
    runs 0xD012 ((start.setI 0xFFF).setV 0xF 1) (fun t =>
      faulted .memoryOutOfBounds 0x200 0xD012 t && t.getV 0xF == 1) = true := by decide
/-- D5: the column is taken from VF before VF is reset. -/
theorem test_drw_from_vf :
    runs 0xDF11 (((start.setV 0xF 60).setI 0x300).writeByte 0x300 0xF0) (fun t =>
      litInRow t 0 == [60, 61, 62, 63] && t.getV 0xF == 0) = true := by decide

/-! ## The keypad and the timers (vectors K1 to K12) -/

/-- K1, K2. -/
theorem test_skp :
    runs 0xE19E (((start.setKey 5 true).setV 1 5).setPc 0x220) (fun t => t.pc == 0x224) = true ∧
    runs 0xE19E ((allKeys start).setV 1 0x15) (fun t => t.pc == 0x202) = true := by decide
/-- K4, K3. -/
theorem test_sknp :
    runs 0xE1A1 (start.setV 1 5) (fun t => t.pc == 0x204) = true ∧
    runs 0xE1A1 ((allKeys start).setV 1 0x15) (fun t => t.pc == 0x204) = true := by decide
/-- K5. -/
theorem test_ld_vx_k_repeats :
    runs 0xF30A ((start.setPc 0x240).setV 3 0x77) (fun t =>
      t.pc == 0x240 && t.getV 3 == 0x77) = true := by decide
/-- K6, K7. -/
theorem test_ld_vx_k_lowest :
    runs 0xF30A (((start.setKey 9 true).setKey 3 true).setPc 0x240) (fun t =>
      t.pc == 0x242 && t.getV 3 == 3) = true ∧
    runs 0xFF0A (start.setKey 0xC true) (fun t => t.getV 0xF == 0xC) = true := by decide
/-- K8. -/
theorem test_ld_vx_dt : runs 0xF407 (start.setDt 0x3C) (fun t => t.getV 4 == 0x3C) = true := by decide
/-- K9. -/
theorem test_ld_dt_vx : runs 0xF015 (start.setV 0 5) (fun t => t.dt == 5) = true := by decide
/-- K10. -/
theorem test_ld_st_vx :
    runs 0xF218 (start.setV 2 0x10) (fun t => t.st == 0x10 && t.isSoundActive) = true := by decide
/-- S10, K12: one count down from 5, and none below 0. -/
theorem test_timer_step :
    gives (HostTx.timerStep.perform (start.setDt 5)) (fun t => t.dt == 4 && t.st == 0) = true := by decide

/-! ## Ticks and host transactions (vectors K11, E2 to E10) -/

/-- K11. -/
theorem test_tick_cycles_then_timers :
    gives (tickOf 4 ((start.setV 0 1).storeBytes 0x200 [0xF0, 0x18, 0x12, 0x02])) (fun t =>
      t.st == 0 && t.pc == 0x202) = true := by decide
/-- E4. -/
theorem test_tick_stops_at_a_fault :
    gives (tickOf 4 ((start.setDt 9).storeBytes 0x200 [0x60, 0x01, 0xA0, 0xFF, 0xAF, 0xFF, 0xF0, 0x33]))
      (fun t => faulted .memoryOutOfBounds 0x206 0xF033 t && t.i == 0xFFF && t.getV 0 == 1
        && t.dt == 9) = true := by decide
/-- E2, E3. -/
theorem test_tick_when_not_running :
    (HostTx.tick 0).perform (start.setRun .faulted) = .next (start.setRun .faulted) :=
  tickOf_of_not_running _ (by decide)
/-- E6, on a short program. -/
theorem test_load_rom :
    gives ((HostTx.loadRom [0x12, 0x34]).perform State.reset) (fun t =>
      t.loadBytes 0x200 3 == [0x12, 0x34, 0] && t.pc == 0x200 && t.run == .stopped) = true := by decide
/-- E5. -/
theorem test_load_rom_rejected (bytes : List Byte) (h : bytes.length = 3585) :
    (HostTx.loadRom bytes).perform start = .next start ∧
    (HostTx.loadRom bytes).reply start = .rejected := by
  have hb : bytes.length > maxRomLength := by rw [h]; decide
  exact ⟨congrArg _ (State.loadRom_rejected start hb), if_pos hb⟩
/-- E8, on the first and the last byte of the font and the bytes beside it. -/
theorem test_load_font :
    gives ((HostTx.loadFont 0x100).perform State.reset) (fun t => t.fontBase == 0x100) = true ∧
    (State.reset.loadFont 0x100).readByte 0x0FF = 0 ∧ (State.reset.loadFont 0x100).readByte 0x100 = 0xF0 ∧
    (State.reset.loadFont 0x100).readByte 0x14F = 0x80 ∧ (State.reset.loadFont 0x100).readByte 0x150 = 0 := by
  rw [State.loadFont_accepted _ (by decide)]
  simp only [State.setFontBase_readByte, State.readByte_storeBytes]
  decide
/-- E7. -/
theorem test_load_font_rejected :
    gives ((HostTx.loadFont 0xFB1).perform start) (fun t => t == start) = true ∧
    (HostTx.loadFont 0xFB1).reply start = .rejected := by decide
/-- E9. The reply is the model's choice (log entry 24). -/
theorem test_set_key_16 :
    gives ((HostTx.setKeyState 16 true).perform start) (fun t => t == start) = true ∧
    (HostTx.setKeyState 16 true).reply start = .rejected ∧
    (HostTx.setKeyState 15 true).reply start = .done := by decide
/-- E10. -/
theorem test_start_and_reset_when_faulted :
    gives (HostTx.start.perform (start.setRun .faulted)) (fun t => t == start.setRun .faulted) = true ∧
    gives (HostTx.reset.perform (start.takeFault .stackOverflow 0x2200)) (fun t =>
      t == { State.reset with standing := some .cycle }) = true := by decide
/-- The host's transactions come first, one a step (log entry 1). -/
theorem test_step_takes_the_oldest_transaction :
    gives (step { State.reset with inbox := [.start, .timerStep] }) (fun t =>
      t.run == .running && t.inbox == [.timerStep] && t.pc == 0x200) = true := by decide

/-- R283: with nothing issued and no standing transaction, a Running core makes no progress. -/
theorem test_step_without_a_host :
    gives (step (State.reset.setRun .running)) (fun t => t == State.reset.setRun .running) = true := by
  decide

/-! ## Reset (R290) and memory (R59, R61) -/

theorem test_reset_memory :
    State.reset.loadBytes 0x04B 6 = [0xF0, 0x80, 0xF0, 0x80, 0x80, 0x00] ∧
    State.reset.readByte 0x200 = 0 ∧ State.reset.readByte 0xFFF = 0 := by decide
/-- A write of the reset content leaves nothing listed, so equal memories are equal data. -/
theorem test_memory_canonical :
    ((State.reset.writeByte 0x300 7).writeByte 0x300 0).mem = [] ∧
    ((State.reset.writeByte 0x301 7).writeByte 0x300 9).mem = [(0x300, 9), (0x301, 7)] ∧
    (State.reset.writeByte 0 0xF0).mem = [] := by decide
theorem test_memory_ill_formed :
    Memory.wf [(0x301, 7), (0x300, 9)] = false ∧ Memory.wf [(0x300, 0)] = false ∧
    Memory.wf [(0x1000, 1)] = false ∧ Memory.wf [(0x300, 1), (0x300, 2)] = false := by decide

/-! ## Witnesses: concrete states and operands that meet the hypotheses of the statements, at the
boundaries of their ranges. Each is named after its statement. -/

/-- A state with a word at pc. -/
def withWord (pc : Word) (w : Nat) : State := (start.setPc pc).withFetchWord 16 w

theorem witness_UnknownOpcodesAreReportedNoOps :
    ∀ s ∈ [withWord 0x200 0x0000, withWord 0xFFE 0x8008, withWord 0x201 0xE09F, withWord 0x000 0xFFFF],
      s.run = .running ∧ s.pc.toNat ≤ 0xFFE ∧ ∃ why, decodeWord s.fetchWord = .unknown why := by
  intro s hs
  simp only [List.mem_cons, List.not_mem_nil, or_false] at hs
  rcases hs with h | h | h | h <;> subst h
  · exact ⟨by decide, by decide, .family0, by decide⟩
  · exact ⟨by decide, by decide, .family8, by decide⟩
  · exact ⟨by decide, by decide, .familyE, by decide⟩
  · exact ⟨by decide, by decide, .familyF, by decide⟩

theorem witness_DecoderAgreesWithOpcodeTable :
    (⟨0xF0FF, 0xF065⟩ : Row) ∈ opcodeTable ∧ (⟨0xF0FF, 0xF065⟩ : Row).matches 0xFF65 = true ∧
    (⟨0xF0FF, 0xF065⟩ : Row).matches 0xFF55 = false := by decide

theorem witness_FetchIsBigEndianAtAnyPc :
    ([] : List Byte).length + 2 ≤ 0xE00 ∧ (List.replicate 0xDFE (0 : Byte)).length + 2 ≤ 0xE00 :=
  ⟨by decide, by rw [List.length_replicate]⟩

/-- With the standing `Cycle()`, and with an issued one in front of another. -/
theorem witness_StepRunsTheDecodedInstruction :
    ∀ s ∈ [withWord 0x200 0x2300, withWord 0xFFE 0x2300,
        { withWord 0x200 0x2300 with inbox := [.cycle, .start], standing := none }],
      s.pending = some .cycle ∧ s.run = .running ∧ s.pc.toNat ≤ 0xFFE ∧
      decodeBytes (s.readByte s.pc.toNat) (s.readByte (s.pc.toNat + 1)) = .instr (.call 0x300) := by
  decide

theorem witness_StepPerformsTheIssuedTransaction :
    (∃ t, step { State.reset with inbox := [.start, .cycle] } = .next t) ∧
    (start.inbox = [] ∧ start.standing = some .cycle ∧ ∃ t, step start = .next t) ∧
    (State.reset.inbox = [] ∧ State.reset.standing = none) :=
  ⟨⟨_, rfl⟩, ⟨rfl, rfl, _, rfl⟩, rfl, rfl⟩

theorem witness_FetchPastMemoryFaults_past :
    ∀ s ∈ [start.setPc 0xFFF, start.setPc 0x1000, start.setPc 0xFFFF],
      s.run = .running ∧ s.pc.toNat > 0xFFE := by decide

theorem witness_FetchPastMemoryFaults_inside :
    (start.setPc 0xFFE).run = .running ∧ (start.setPc 0xFFE).pc.toNat ≤ 0xFFE ∧
    (start.setPc 0xFFE).faultCause ≠ .fetchOutOfBounds ∧ ∃ t, cycle (start.setPc 0xFFE) = .next t :=
  ⟨by decide, by decide, by decide, _, rfl⟩

theorem witness_NothingExecutesUnlessRunning :
    State.reset.run ≠ .running ∧ (start.takeFault .stackOverflow 0).run ≠ .running := by decide

theorem witness_ByteWriteSetsExactlyItsByte : (0 : Nat) ≤ 0xFFF ∧ (0xFFF : Nat) ≤ 0xFFF := by decide

theorem witness_ResetMemoryIsTheFontThenZeros :
    (0x04F : Nat) ≤ 0xFFF ∧ 0x04F < fontGlyphs.length ∧ ¬ 0x050 < fontGlyphs.length := by decide

/-- The word FX55 stores is the next one fetched, whole, and with one byte only. -/
theorem witness_StoredBytesAreFetchedNext_store :
    (∃ t, exec (.ldMemVx 0xF) ((start.setPc 0xFEE).setI 0xFF0) = .next t ∧
      ((start.setPc 0xFEE).setI 0xFF0).i.toNat + (0xF : Nibble).toNat ≤ 0xFFF ∧
      t.pc.toNat = ((start.setPc 0xFEE).setI 0xFF0).i.toNat + (0 : Nibble).toNat) ∧
    (∃ t, exec (.ldMemVx 0) (start.setI 0x203) = .next t ∧
      t.pc.toNat + 1 = (start.setI 0x203).i.toNat + (0 : Nibble).toNat) :=
  ⟨⟨_, rfl, by decide, by decide⟩, ⟨_, rfl, by decide⟩⟩

/-- Each digit as the high byte of a fetch, and as the low byte of one, at the top of memory. -/
theorem witness_StoredBytesAreFetchedNext_digits :
    (start.setI 0xFFD).i.toNat + 2 ≤ 0xFFF ∧
    ∀ k ∈ [0, 1, 2],
      gives (exec (.ldBVx 0) ((start.setPc (BitVec.ofNat 16 (0xFFB + k))).setI 0xFFD)) (fun t =>
        t.pc.toNat == (start.setI 0xFFD).i.toNat + k) = true ∧
      gives (exec (.ldBVx 0) ((start.setPc (BitVec.ofNat 16 (0xFFA + k))).setI 0xFFD)) (fun t =>
        t.pc.toNat + 1 == (start.setI 0xFFD).i.toNat + k) = true := by decide

theorem witness_StoredBytesAreFetchedNext_rom :
    (0 : Nat) < ([0x12, 0x34] : List Byte).length ∧ ([0x12, 0x34] : List Byte).length ≤ 0xE00 ∧
    start.pc.toNat = 0x200 + 0 ∧ start.pc.toNat + 1 = 0x200 + 1 := by decide

theorem witness_ReturnPopsTheStackIntoPc :
    ({ start with stack := [0x202, 0x302] } : State).stack = [0x202] ++ [0x302] ∧ start.stack = [] := by
  decide

theorem witness_CallPushesTheAdvancedPc :
    ({ start with stack := List.replicate 15 0x202 } : State).stack.length < 16 ∧
    start.stack.length < 16 := by decide

theorem witness_CallOnAFullStackFaults :
    ({ start with stack := List.replicate 16 0x202 } : State).stack.length = 16 := by decide

theorem witness_ReturnGoesBackBehindTheCall :
    start.stack.length < 16 ∧ ∃ t, exec (.call 0x300) start = .next t ∧
      (State.reset.push 0x202).stack = t.stack := ⟨by decide, _, rfl, by decide⟩

theorem witness_AddSetsVFToTheCarry : (0xE : Nibble) ≠ 0xF ∧ (0x0 : Nibble) ≠ 0xF := by decide

theorem witness_SubtractSetsVFToNoBorrow : (0xE : Nibble) ≠ 0xF ∧ (0x0 : Nibble) ≠ 0xF := by decide

theorem witness_ShiftsMoveTheBitOutToVF : (0xE : Nibble) ≠ 0xF ∧ (0xF : Nibble) = 0xF := by decide

theorem witness_RandomByteIsMaskedByItsImmediate :
    (0x00 : Byte) = 0 ∧ ∃ t, exec (.rnd 0xF 0x00) start = .next t := ⟨rfl, _, rfl⟩

theorem witness_DecimalDigitsAreStoredAtI :
    (start.setI 0xFFD).i.toNat + 2 ≤ 0xFFF ∧ (start.setI 0xFFE).i.toNat + 2 > 0xFFF := by decide

theorem witness_RegistersAreStoredFromI :
    (start.setI 0xFF0).i.toNat + (0xF : Nibble).toNat ≤ 0xFFF ∧
    (start.setI 0xFFF).i.toNat + (0x0 : Nibble).toNat ≤ 0xFFF ∧
    (start.setI 0xFF1).i.toNat + (0xF : Nibble).toNat > 0xFFF ∧
    (start.setI 0x1000).i.toNat + (0x0 : Nibble).toNat > 0xFFF := by decide

theorem witness_RegistersAreLoadedFromI :
    (start.setI 0xFF0).i.toNat + (0xF : Nibble).toNat ≤ 0xFFF ∧
    (start.setI 0xFFF).i.toNat + (0x1 : Nibble).toNat > 0xFFF := by decide

/-- The registers of the loading state are other ones than those stored. -/
theorem witness_LoadBackRestoresTheStoredRegisters :
    ((start.setI 0xFFE).setV 1 7).i.toNat + (1 : Nibble).toNat ≤ 0xFFF ∧
    ∃ t u, exec (.ldMemVx 1) ((start.setI 0xFFE).setV 1 7) = .next t ∧ u = t.setV 1 9 ∧ u.i = t.i ∧
      ∀ a, u.readByte a = t.readByte a :=
  ⟨by decide, _, _, rfl, rfl, rfl, fun _ => rfl⟩

theorem witness_DrawTogglesExactlyTheCoveredPixels :
    ((0 : Nibble) = 0 ∨ (start.setI 0xFFFF).i.toNat + (0 : Nibble).toNat - 1 ≤ 0xFFF) ∧
    ((0xF : Nibble) = 0 ∨ (start.setI 0xFF1).i.toNat + (0xF : Nibble).toNat - 1 ≤ 0xFFF) ∧
    ((1 : Nibble) = 0 ∨ (start.setI 0xFFF).i.toNat + (1 : Nibble).toNat - 1 ≤ 0xFFF) := by decide

/-- A pixel that a sprite covers: the top left one of the glyph 0. -/
theorem witness_spriteCovers : spriteCovers start 0 1 5 0 0 :=
  ⟨0, 0, by decide, by decide, by decide, by decide, by decide⟩

theorem witness_DrawPastMemoryFaults :
    (2 : Nibble) ≠ 0 ∧ (start.setI 0xFFF).i.toNat + (2 : Nibble).toNat - 1 > 0xFFF ∧
    (start.setI 0x1000).i.toNat + (1 : Nibble).toNat - 1 > 0xFFF := by decide

/-- The second draw is made in a state that differs from the first one's outcome in VF and pc. -/
theorem witness_DrawingTwiceRestoresTheFramebuffer :
    (0 : Nibble) ≠ 0xF ∧ (0xE : Nibble) ≠ 0xF ∧
    ((5 : Nibble) = 0 ∨ start.i.toNat + (5 : Nibble).toNat - 1 ≤ 0xFFF) ∧
    ∃ t u, exec (.drw 0 0xE 5) start = .next t ∧ u = (t.setV 0xF 9).setPc 0x400 ∧ u.fb = t.fb ∧
      u.i = start.i ∧ u.getV 0 = start.getV 0 ∧ u.getV 0xE = start.getV 0xE ∧
      ∀ k, k < (5 : Nibble).toNat → u.readByte (start.i.toNat + k) = start.readByte (start.i.toNat + k) :=
  ⟨by decide, by decide, by decide, _, _, rfl, rfl, rfl, rfl, by decide, by decide, fun _ _ => rfl⟩

theorem witness_KeySkipsReadTheNamedKey :
    (∃ h : ((allKeys start).setV 1 0xF |>.getV 1).toNat < 16,
      (allKeys start).key[((allKeys start).setV 1 0xF |>.getV 1).toNat] = true) ∧
    ¬ ((allKeys start).setV 1 0x10 |>.getV 1).toNat < 16 := ⟨⟨by decide, by decide⟩, by decide⟩

theorem witness_KeyWaitTakesTheLowestKeyOrRepeats :
    (start.setKey 15 true).key[15] = true ∧
    (∀ (j : Nat) (hj : j < 16), (start.setKey 15 true).key[j] = true → 15 ≤ j) ∧
    ∀ (k : Nat) (hk : k < 16), start.key[k] = false := by decide

theorem witness_TickIsItsCyclesThenOneTimerStep :
    start.run = .running ∧ (∃ u, cycles 2 start = .next u ∧ u.run = .running) ∧
    (∃ u, cycles 2 (start.setPc 0xFFE) = .next u ∧ u.run = .faulted) :=
  ⟨by decide, ⟨_, rfl, by decide⟩, ⟨_, rfl, by decide⟩⟩

theorem witness_KeypadIsConstantThroughATick :
    (∃ t, tickOf 2 start = .next t) ∧ (1 : Nat) ≤ 2 ∧ (2 : Nat) ≤ 2 ∧ ∃ u, cycles 1 start = .next u :=
  ⟨⟨_, rfl⟩, by decide, by decide, _, rfl⟩

theorem witness_FaultsArePreciseAndWriteOnlyTheRecord :
    (∃ t, cycle (start.setPc 0xFFF) = .next t ∧ t.run = .faulted) ∧
    (∃ t, cycle ((withWord 0x200 0xFF55).setI 0xFF1) = .next t ∧ t.run = .faulted) ∧
    (∃ t, cycle { withWord 0xFFE 0x2300 with stack := List.replicate 16 0 } = .next t ∧
      t.run = .faulted) := ⟨⟨_, rfl, by decide⟩, ⟨_, rfl, by decide⟩, ⟨_, rfl, by decide⟩⟩

theorem witness_InstructionsFaultExactlyWhenDue :
    dueFault { start with stack := List.replicate 16 0 } (.call 0x300) ≠ .none ∧
    dueFault { start with stack := List.replicate 15 0 } (.call 0x300) = .none ∧
    dueFault (start.setI 0xFFF) (.drw 0 1 2) ≠ .none ∧ dueFault (start.setI 0xFFF) (.drw 0 1 1) = .none ∧
    dueFault (start.setI 0xFFE) (.ldBVx 0) ≠ .none ∧ dueFault (start.setI 0xFFD) (.ldBVx 0) = .none := by
  decide

theorem witness_InstructionsWriteOnlyTheirOwnPieces :
    dueFault (start.setI 0xFF0) (.ldMemVx 0xF) = .none ∧
    ∃ t, exec (.ldMemVx 0xF) (start.setI 0xFF0) = .next t := ⟨by decide, _, rfl⟩

theorem witness_RunStateChangesOnlyAsListed :
    (∃ t, step { State.reset with inbox := [.start] } = .next t ∧ t.run ≠ State.reset.run) ∧
    (∃ t, step (start.setPc 0xFFF) = .next t ∧ t.run ≠ (start.setPc 0xFFF).run) ∧
    (∃ t, step { start with inbox := [.reset] } = .next t ∧ t.run ≠ start.run) :=
  ⟨⟨_, rfl, by decide⟩, ⟨_, rfl, by decide⟩, ⟨_, rfl, by decide⟩⟩

theorem witness_LoadsWriteTheirBytesOrAreRejected :
    (0xFB0 : Nat) ≤ 0xFB0 ∧ (0xFB1 : Nat) > 0xFB0 ∧ (List.replicate 0xE00 (0 : Byte)).length ≤ 0xE00 ∧
    (List.replicate 0xE01 (0 : Byte)).length > 0xE00 :=
  ⟨by decide, by decide, by rw [List.length_replicate], by rw [List.length_replicate]; decide⟩

theorem witness_SetKeyStateSetsOneKey :
    (15 : Nat) < 16 ∧ (start.setKey 15 true).key[15] = true ∧ start.setKey 16 true = start := by decide

theorem witness_ResetStateIsAsListed : (0 : Nat) < 16 ∧ (15 : Nat) < 16 := by decide

theorem witness_StartAndResetMoveTheRunState :
    State.reset.run = .stopped ∧ start.run ≠ .stopped := by decide

/-- A state off the reset path: a full stack, stored memory, pc at its bound. -/
def far : State :=
  { start with mem := [(0xFFF, 9)], pc := 0x10FE, stack := List.replicate 16 0x1000 }

theorem witness_EveryStepKeepsTheInvariant_inv : far.Inv where
  memory := by decide
  stackBound := by decide
  returns := fun w hw => by rw [List.eq_of_mem_replicate hw]; decide
  pcBound := by decide
  fontFits := by decide
  faultRecorded := by decide
  faultPrecise := by decide
  faultClear := by decide
  reported := by intro r h; cases h

theorem witness_EveryStepKeepsTheInvariant_step :
    gives (step far) (faulted .fetchOutOfBounds 0x10FE 0) = true := by decide

/-- Nothing pending, a timer step, and a load. -/
theorem witness_OnlyTicksAndCyclesMakeProgress :
    ∀ s ∈ [State.reset, { start with inbox := [.timerStep] }, { start with inbox := [.loadRom [1]] }],
      gives (step s) (fun _ => true) = true ∧ s.pending ≠ some .cycle ∧ s.pending ≠ some .reset ∧
      (match s.pending with | some (.tick _) => false | _ => true) = true := by decide

theorem witness_EveryStepKeepsMemoryCanonical :
    (start.writeByte 0xFFF 9).mem.wf = true ∧ ∃ t, step (start.writeByte 0xFFF 9) = .next t :=
  ⟨by decide, _, rfl⟩

end Sys2Proof.Tests
end

section
/-! PROOFS of the family spec/00_scope.md. Everything an instruction can do is said once (`exec_cases`):
the fault the list of R241 makes due (`dueFault`), or a next state that differs only in the pieces its
rule names (`mayWrite`). What a cycle, a tick and a host transaction leave of the host's own state
follows from it. -/

namespace Sys2Proof.Machine

/-! ## Everything an instruction can do -/

/-- No fault is due, and `exec` answers a next state that differs only in the pieces `i` may write. -/
def CompletesInFrame (i : Instr) (s : State) : Prop :=
  dueFault s i = .none ∧ ∃ t, exec i s = .next t ∧ Untouched (mayWrite s i) s t

/-- A fault is due, and `exec` enters it from the state at the start of the cycle. -/
def FaultsAsDue (i : Instr) (s : State) : Prop :=
  dueFault s i ≠ .none ∧ exec i s = raise (dueFault s i) (encode i) s

section
variable {i : Instr} {s t : State}

/-- The fetch advance is made first (R77), so only the work after it is left to frame. -/
theorem completesInFrame_of_advance (hd : dueFault s i = .none) (hpc : mayWrite s i .pc)
    (he : exec i s = .next t) (hu : Untouched (mayWrite s i) s.advance t) : CompletesInFrame i s :=
  ⟨hd, t, he, (untouched_advance _ s hpc).trans hu⟩

theorem completesInFrame_of_setPc (w : Word) (hd : dueFault s i = .none) (hpc : mayWrite s i .pc)
    (he : exec i s = .next (s.advance.setPc w)) : CompletesInFrame i s :=
  completesInFrame_of_advance hd hpc he (untouched_setPc _ _ w hpc)

theorem completesInFrame_of_skipIf (b : Bool) (hd : dueFault s i = .none) (hpc : mayWrite s i .pc)
    (he : exec i s = .next (s.advance.skipIf b)) : CompletesInFrame i s :=
  completesInFrame_of_advance hd hpc he (untouched_skipIf _ _ b hpc)

theorem completesInFrame_of_setI (w : Word) (hd : dueFault s i = .none) (hpc : mayWrite s i .pc)
    (hi : mayWrite s i .i) (he : exec i s = .next (s.advance.setI w)) : CompletesInFrame i s :=
  completesInFrame_of_advance hd hpc he (untouched_setI _ _ w hi)

theorem completesInFrame_of_setV (x : Nibble) (b : Byte) (hd : dueFault s i = .none)
    (hpc : mayWrite s i .pc) (hx : mayWrite s i (.v x)) (he : exec i s = .next (s.advance.setV x b)) :
    CompletesInFrame i s :=
  completesInFrame_of_advance hd hpc he (untouched_setV _ _ x b hx)

/-- The flag-writing instructions write VF, then V[X] (R131). -/
theorem completesInFrame_of_flag_setV (x : Nibble) (f b : Byte) (hd : dueFault s i = .none)
    (hpc : mayWrite s i .pc) (hf : mayWrite s i (.v 0xF)) (hx : mayWrite s i (.v x))
    (he : exec i s = .next ((s.advance.setV vf f).setV x b)) : CompletesInFrame i s :=
  completesInFrame_of_advance hd hpc he
    ((untouched_setV _ _ vf f hf).trans (untouched_setV _ _ x b hx))

/-- An instruction that checks a condition before it does anything: it completes or faults as the check
says, when the check is the one R241 lists for it. -/
theorem cases_of_check {p : Prop} [Decidable p] {c : FaultCause} (hc : c ≠ .none)
    (hd : dueFault s i = if p then .none else c)
    (he : exec i s = if p then .next t else raise c (encode i) s) (hpc : mayWrite s i .pc)
    (hu : Untouched (mayWrite s i) s.advance t) : CompletesInFrame i s ∨ FaultsAsDue i s := by
  by_cases h : p
  · rw [if_pos h] at hd he
    exact .inl (completesInFrame_of_advance hd hpc he hu)
  · rw [if_neg h] at hd he
    exact .inr ⟨hd ▸ hc, hd ▸ he⟩

end

/-! ### The instructions that read their state before they choose -/

theorem execRet_completes (s : State) : CompletesInFrame .ret s := by
  cases h : s.advance.top with
  | none =>
    exact completesInFrame_of_advance rfl (.inl rfl) (by simp only [exec, execRet, h])
      (Untouched.refl _ _)
  | some w =>
    exact completesInFrame_of_advance rfl (.inl rfl) (by simp only [exec, execRet, h])
      ((untouched_pop _ _ (.inr rfl)).trans (untouched_setPc _ _ w (.inl rfl)))

theorem execLdVxK_completes (x : Nibble) (s : State) : CompletesInFrame (.ldVxK x) s := by
  cases h : s.advance.lowestKey with
  | none =>
    exact completesInFrame_of_setPc (s.advance.pc - 2) rfl (.inl rfl)
      (by simp only [exec, execLdVxK, h])
  | some k =>
    exact completesInFrame_of_setV x (BitVec.ofNat 8 k) rfl (.inl rfl) (.inr rfl)
      (by simp only [exec, execLdVxK, h])

/-! ### The instructions that can fault (R241) -/

theorem execCall_cases (nnn : Addr) (s : State) :
    CompletesInFrame (.call nnn) s ∨ FaultsAsDue (.call nnn) s :=
  cases_of_check (p := s.sp ≠ stackDepth) (c := .stackOverflow) (by decide)
    (by rw [ite_not]; rfl) (by rw [ite_not]; rfl) (.inl rfl)
    ((untouched_push _ _ _ (.inr rfl)).trans (untouched_setPc _ _ _ (.inl rfl)))

/-- R241's bound for a block of at least one byte, as `dueFault` lists it. -/
theorem ite_blockInBounds (base : Word) (n : Nat) :
    (if base.toNat + n > 0xFFF then FaultCause.memoryOutOfBounds else .none) =
      if blockInBounds base (n + 1) then .none else .memoryOutOfBounds := by
  have h : base.toNat + n > 0xFFF ↔ ¬ blockInBounds base (n + 1) = true := by
    rw [blockInBounds_iff]; omega
  rw [if_congr h rfl rfl, ite_not]

theorem execDrw_cases (x y n : Nibble) (s : State) :
    CompletesInFrame (.drw x y n) s ∨ FaultsAsDue (.drw x y n) s := by
  have hdue : n.toNat > 0 ∧ s.i.toNat + n.toNat - 1 > 0xFFF ↔ ¬ blockInBounds s.i n.toNat = true := by
    rw [blockInBounds_iff]; omega
  refine cases_of_check (p := blockInBounds s.i n.toNat = true) (c := .memoryOutOfBounds) (by decide)
    ?_ rfl (.inl rfl)
    ((untouched_setFb _ _ _ (.inr (.inl rfl))).trans (untouched_setV _ _ _ _ (.inr (.inr rfl))))
  rw [dueFault, if_congr hdue rfl rfl, ite_not]

theorem execLdBVx_cases (x : Nibble) (s : State) :
    CompletesInFrame (.ldBVx x) s ∨ FaultsAsDue (.ldBVx x) s :=
  cases_of_check (by decide) (ite_blockInBounds s.i 2) rfl (.inl rfl)
    (untouched_storeBytes _ _ _ _ fun k hk => .inr ⟨k, by simpa using hk, rfl⟩)

theorem execLdMemVx_cases (x : Nibble) (s : State) :
    CompletesInFrame (.ldMemVx x) s ∨ FaultsAsDue (.ldMemVx x) s :=
  cases_of_check (by decide) (ite_blockInBounds s.i x.toNat) rfl (.inl rfl)
    (untouched_storeBytes _ _ _ _ fun k hk =>
      .inr ⟨k, by rw [State.length_regsUpTo] at hk; omega, rfl⟩)

theorem execLdVxMem_cases (x : Nibble) (s : State) :
    CompletesInFrame (.ldVxMem x) s ∨ FaultsAsDue (.ldVxMem x) s :=
  cases_of_check (by decide) (ite_blockInBounds s.i x.toNat) rfl (.inl rfl)
    (untouched_loadRegs _ _ _ x.isLt fun y hy => .inr ⟨y, hy, rfl⟩)

/-- Everything an instruction can do, in every state (R78, R241, R243). -/
theorem exec_cases (i : Instr) (s : State) : CompletesInFrame i s ∨ FaultsAsDue i s := by
  cases i with
  | cls =>
    exact .inl (completesInFrame_of_advance rfl (.inl rfl) rfl (untouched_setFb _ _ _ (.inr rfl)))
  | ret => exact .inl (execRet_completes s)
  | jp nnn => exact .inl (completesInFrame_of_setPc _ rfl rfl rfl)
  | call nnn => exact execCall_cases nnn s
  | seImm x kk => exact .inl (completesInFrame_of_skipIf _ rfl rfl rfl)
  | sneImm x kk => exact .inl (completesInFrame_of_skipIf _ rfl rfl rfl)
  | seReg x y => exact .inl (completesInFrame_of_skipIf _ rfl rfl rfl)
  | ldImm x kk => exact .inl (completesInFrame_of_setV x _ rfl (.inl rfl) (.inr rfl) rfl)
  | addImm x kk => exact .inl (completesInFrame_of_setV x _ rfl (.inl rfl) (.inr rfl) rfl)
  | ldReg x y => exact .inl (completesInFrame_of_setV x _ rfl (.inl rfl) (.inr rfl) rfl)
  | orReg x y => exact .inl (completesInFrame_of_setV x _ rfl (.inl rfl) (.inr rfl) rfl)
  | andReg x y => exact .inl (completesInFrame_of_setV x _ rfl (.inl rfl) (.inr rfl) rfl)
  | xorReg x y => exact .inl (completesInFrame_of_setV x _ rfl (.inl rfl) (.inr rfl) rfl)
  | addReg x y =>
    exact .inl (completesInFrame_of_flag_setV x _ _ rfl (.inl rfl) (.inr (.inr rfl)) (.inr (.inl rfl)) rfl)
  | sub x y =>
    exact .inl (completesInFrame_of_flag_setV x _ _ rfl (.inl rfl) (.inr (.inr rfl)) (.inr (.inl rfl)) rfl)
  | shr x y =>
    exact .inl (completesInFrame_of_flag_setV x _ _ rfl (.inl rfl) (.inr (.inr rfl)) (.inr (.inl rfl)) rfl)
  | subn x y =>
    exact .inl (completesInFrame_of_flag_setV x _ _ rfl (.inl rfl) (.inr (.inr rfl)) (.inr (.inl rfl)) rfl)
  | shl x y =>
    exact .inl (completesInFrame_of_flag_setV x _ _ rfl (.inl rfl) (.inr (.inr rfl)) (.inr (.inl rfl)) rfl)
  | sneReg x y => exact .inl (completesInFrame_of_skipIf _ rfl rfl rfl)
  | ldI nnn => exact .inl (completesInFrame_of_setI _ rfl (.inl rfl) (.inr rfl) rfl)
  | jpV0 nnn => exact .inl (completesInFrame_of_setPc _ rfl rfl rfl)
  | rnd x kk =>
    exact .inl (completesInFrame_of_advance rfl (.inl rfl) rfl
      ((untouched_nextDraw _ _ (.inr (.inr rfl))).trans (untouched_setV _ _ x _ (.inr (.inl rfl)))))
  | drw x y n => exact execDrw_cases x y n s
  | skp x => exact .inl (completesInFrame_of_skipIf _ rfl rfl rfl)
  | sknp x => exact .inl (completesInFrame_of_skipIf _ rfl rfl rfl)
  | ldVxDt x => exact .inl (completesInFrame_of_setV x _ rfl (.inl rfl) (.inr rfl) rfl)
  | ldVxK x => exact .inl (execLdVxK_completes x s)
  | ldDtVx x =>
    exact .inl (completesInFrame_of_advance rfl (.inl rfl) rfl (untouched_setDt _ _ _ (.inr rfl)))
  | ldStVx x =>
    exact .inl (completesInFrame_of_advance rfl (.inl rfl) rfl (untouched_setSt _ _ _ (.inr rfl)))
  | addIVx x => exact .inl (completesInFrame_of_setI _ rfl (.inl rfl) (.inr rfl) rfl)
  | ldFVx x => exact .inl (completesInFrame_of_setI _ rfl (.inl rfl) (.inr rfl) rfl)
  | ldBVx x => exact execLdBVx_cases x s
  | ldMemVx x => exact execLdMemVx_cases x s
  | ldVxMem x => exact execLdVxMem_cases x s

/-! ## What a cycle and a tick leave to the host -/

/-- The pieces no cycle changes, and no tick: the keypad (R30, R213), FONT_BASE (R32), and what the host
has issued (log entry 1). -/
def hostOnly (p : Piece) : Prop := p = .key ∨ p = .fontBase ∨ p = .inbox ∨ p = .standing

theorem not_hostOnly_of_mayWrite {i : Instr} {s : State} {p : Piece} (h : mayWrite s i p) :
    ¬ hostOnly p := by
  rintro (rfl | rfl | rfl | rfl) <;> cases i <;> simp [mayWrite] at h

theorem untouched_hostOnly_raise {f : FaultCause} {op : Word} {s t : State}
    (h : raise f op s = .next t) : Untouched (fun p => ¬ hostOnly p) s t := by
  cases h
  exact untouched_takeFault _ s f op (by simp [hostOnly]) (by simp [hostOnly])

theorem untouched_hostOnly_exec {i : Instr} {s t : State} (h : exec i s = .next t) :
    Untouched (fun p => ¬ hostOnly p) s t := by
  rcases exec_cases i s with ⟨_, u, hu, frame⟩ | ⟨_, hf⟩
  · cases hu.symm.trans h
    exact frame.mono fun _ => not_hostOnly_of_mayWrite
  · exact untouched_hostOnly_raise (hf.symm.trans h)

theorem untouched_hostOnly_cycle {s t : State} (h : cycle s = .next t) :
    Untouched (fun p => ¬ hostOnly p) s t := by
  rcases cycle_cases s with ⟨_, hc⟩ | ⟨_, _, hc⟩ | ⟨_, _, i, _, hc⟩ | ⟨_, _, _, _, hc⟩ <;>
    rw [hc] at h
  case inl => cases h; exact Untouched.refl _ s
  case inr.inl => exact untouched_hostOnly_raise h
  case inr.inr.inl => exact untouched_hostOnly_exec h
  case inr.inr.inr =>
    cases h
    exact (untouched_advance _ s (by simp [hostOnly])).trans
      (untouched_report _ _ _ _ (by simp [hostOnly]))

theorem untouched_hostOnly_tickOf {n : Nat} {s t : State} (h : tickOf n s = .next t) :
    Untouched (fun p => ¬ hostOnly p) s t :=
  tickOf_keeps (P := Untouched (fun p => ¬ hostOnly p) s)
    (fun _ _ hs hc => hs.trans (untouched_hostOnly_cycle hc))
    (fun u hs => hs.trans (untouched_timerStep _ u (by simp [hostOnly]) (by simp [hostOnly])))
    n (Untouched.refl _ s) h

/-! ## No transaction issues another -/

/-- The pieces that are not the host's issued transactions. -/
def notIssued (p : Piece) : Prop := p ≠ .inbox ∧ p ≠ .standing

theorem notIssued_of_not_hostOnly {p : Piece} (h : ¬ hostOnly p) : notIssued p := by
  constructor <;> rintro rfl <;> simp [hostOnly] at h

theorem Untouched.issued {s t : State} (h : Untouched notIssued s t) :
    t.inbox = s.inbox ∧ t.standing = s.standing :=
  ⟨h.inbox fun hn => hn.1 rfl, h.standing fun hn => hn.2 rfl⟩

/-- Performing a transaction leaves what the host has issued as it was (log entry 1). -/
theorem HostTx.perform_issued {tx : HostTx} {s t : State} (h : tx.perform s = .next t) :
    t.inbox = s.inbox ∧ t.standing = s.standing := by
  cases tx with
  | tick _ => exact ((untouched_hostOnly_tickOf h).mono fun _ => notIssued_of_not_hostOnly).issued
  | cycle => exact ((untouched_hostOnly_cycle h).mono fun _ => notIssued_of_not_hostOnly).issued
  | loadFont offset =>
    cases h
    exact (untouched_loadFont notIssued s offset (by simp [notIssued]) (by simp [notIssued])).issued
  | loadRom bytes =>
    cases h
    exact (untouched_loadRom notIssued s bytes (by simp [notIssued])).issued
  | start =>
    cases h
    rcases s.start_cases with ⟨_, hs⟩ | ⟨_, hs⟩ <;> rw [hs]
    · exact ⟨s.setRun_inbox _, s.setRun_standing _⟩
    · exact ⟨rfl, rfl⟩
  | setKeyState keyId pressed => cases h; exact ⟨s.setKey_inbox _ _, s.setKey_standing _ _⟩
  | reset => cases h; exact ⟨rfl, rfl⟩
  | timerStep => cases h; exact ⟨s.timerStep_inbox, s.timerStep_standing⟩
  | readFramebuffer => cases h; exact ⟨rfl, rfl⟩
  | isSoundActive => cases h; exact ⟨rfl, rfl⟩
  | isRunning => cases h; exact ⟨rfl, rfl⟩
  | readStatus => cases h; exact ⟨rfl, rfl⟩

/-- A step performs the pending transaction and takes it off the inbox, and issues no other. -/
theorem step_issued_of_pending {s t : State} {tx : HostTx} (hp : s.pending = some tx)
    (h : step s = .next t) : t.inbox = s.inbox.tail ∧ t.standing = s.standing := by
  rw [step_of_pending hp] at h
  simpa using HostTx.perform_issued h

/-- Settles O8, by the three cases of the inbox and the standing transaction. -/
theorem stepPerformsTheIssuedTransaction : Obligations.StepPerformsTheIssuedTransaction := by
  refine ⟨fun s tx rest hi => ?_, fun s tx hi hs => ?_, fun s hi hs => ?_⟩
  · have hp := State.pending_of_issued hi
    refine ⟨by rw [step_of_pending hp, State.takeIssued_of_issued hi], fun t ht => ?_⟩
    simpa [hi] using step_issued_of_pending hp ht
  · have hp : s.pending = some tx := (State.pending_of_empty hi).trans hs
    refine ⟨by rw [step_of_pending hp, State.takeIssued_of_empty hi], fun t ht => ?_⟩
    simpa [hi, hs] using step_issued_of_pending hp ht
  · exact step_of_none ((State.pending_of_empty hi).trans hs)

end Sys2Proof.Machine
end

section
/-! PROOFS of the family spec/10_state.md. The frame of the instruction set is read off `exec_cases`. The
invariant rests on what an instruction does to the pieces it bounds: where it leaves pc (`NextPc`), the
stack (`exec_stack`) and memory (`exec_wf`). The other pieces it speaks of change only on a fault, a
report or a host transaction (`fixedByExec`). The bounds on pc and on return addresses hold because an
instruction runs only from a pc that can be fetched, at most 0xFFE. -/

namespace Sys2Proof.Machine

/-! ## The frame of the instruction set -/

theorem untouched_mayWrite_exec {i : Instr} {s t : State} (hd : dueFault s i = .none)
    (h : exec i s = .next t) : Untouched (mayWrite s i) s t := by
  rcases exec_cases i s with ⟨_, u, hu, frame⟩ | ⟨hf, _⟩
  · cases hu.symm.trans h
    exact frame
  · exact absurd hd hf

/-- Settles O48: of the two ways an instruction can end, only the completed one has no fault due. -/
theorem instructionsWriteOnlyTheirOwnPieces : Obligations.InstructionsWriteOnlyTheirOwnPieces :=
  fun _ _ _ => untouched_mayWrite_exec

/-! ## What an instruction does to the pieces the invariant bounds -/

section
variable {i : Instr} {s t u : State}

/-- An instruction that checks a condition first has done its work or entered the fault. -/
theorem next_of_check {p : Prop} [Decidable p] {c : FaultCause} {op : Word}
    (h : (if p then .next u else raise c op s) = .next t) : (p ∧ t = u) ∨ t = s.takeFault c op := by
  by_cases hp : p
  · rw [if_pos hp] at h; cases h; exact .inl ⟨hp, rfl⟩
  · rw [if_neg hp] at h; cases h; exact .inr rfl

theorem execRet_next (h : exec .ret s = .next t) :
    t = s.advance ∨ ∃ w ∈ s.stack, t = s.advance.pop.setPc w := by
  simp only [exec, execRet] at h
  split at h
  case h_1 => cases h; exact .inl rfl
  case h_2 w hw => cases h; exact .inr ⟨w, List.mem_of_getLast? hw, rfl⟩

theorem execCall_next {nnn : Addr} (h : exec (.call nnn) s = .next t) :
    (s.sp ≠ stackDepth ∧ t = (s.advance.push s.advance.pc).setPc (immWord nnn)) ∨
      t = s.takeFault .stackOverflow (encode (.call nnn)) :=
  next_of_check (by rw [ite_not]; exact h)

theorem execLdVxK_next {x : Nibble} (h : exec (.ldVxK x) s = .next t) :
    (∃ b, t = s.advance.setV x b) ∨ t = s.advance.setPc (s.advance.pc - 2) := by
  simp only [exec, execLdVxK] at h
  split at h <;> cases h
  · exact .inl ⟨_, rfl⟩
  · exact .inr rfl

/-! ### pc -/

/-- The pc an instruction can leave (R24, R25): its own (a fault, or FX0A that waits), the next one, the
one after that, a target, BNNN's sum, or a return address held on the stack. -/
inductive NextPc (s : State) : Word → Prop
  | same : NextPc s s.pc
  | next : NextPc s (s.pc + 2)
  | skip : NextPc s (s.pc + 2 + 2)
  | target (nnn : Addr) : NextPc s (immWord nnn)
  | sum (nnn : Addr) : NextPc s (immWord nnn + s.wideV 0)
  | ret {w : Word} (hw : w ∈ s.stack) : NextPc s w

theorem nextPc_skipIf (s : State) (c : Bool) : NextPc s (s.advance.skipIf c).pc := by
  cases c
  · exact .next
  · exact .skip

theorem exec_nextPc (h : exec i s = .next t) : NextPc s t.pc := by
  cases i with
  | jp nnn => cases h; exact .target nnn
  | jpV0 nnn => cases h; exact .sum nnn
  | call nnn =>
    rcases execCall_next h with ⟨_, rfl⟩ | rfl
    · exact .target nnn
    · exact .same
  | ret =>
    rcases execRet_next h with rfl | ⟨w, hw, rfl⟩
    · exact .next
    · exact .ret hw
  | seImm x kk | sneImm x kk | seReg x y | sneReg x y | skp x | sknp x =>
    cases h; exact nextPc_skipIf s _
  | ldVxK x =>
    rcases execLdVxK_next h with ⟨b, rfl⟩ | rfl
    · exact .next
    · rw [State.setPc_pc, State.advance_pc, BitVec.add_sub_cancel]; exact .same
  | drw x y n | ldBVx x | ldMemVx x | ldVxMem x =>
    rcases next_of_check h with ⟨_, rfl⟩ | rfl
    · simpa using NextPc.next
    · exact .same
  | _ => cases h; exact .next

/-- R25: from a fetched pc, none of them is above 0x10FE, which is BNNN's 0xFFF + 0xFF. -/
theorem NextPc.bound {w : Word} (h : NextPc s w) (hpc : s.pc.toNat ≤ 0xFFE)
    (hret : ∀ w ∈ s.stack, w.toNat ≤ 0x1000) : w.toNat ≤ 0x10FE := by
  cases h with
  | same => omega
  | next => bv_omega
  | skip => bv_omega
  | target nnn => have := nnn.isLt; rw [toNat_immWord]; omega
  | sum nnn =>
    have := nnn.isLt
    have := (s.getV 0).isLt
    rw [BitVec.toNat_add, toNat_immWord, State.toNat_wideV]
    omega
  | ret hw => exact (hret w hw).trans (by decide)

/-! ### The stack -/

/-- An instruction leaves the stack, pops it, or pushes the address after it on a stack not full. -/
theorem exec_stack (h : exec i s = .next t) :
    t.stack = s.stack ∨ t.stack = s.stack.dropLast ∨
      (s.sp ≠ stackDepth ∧ t.stack = s.stack ++ [s.pc + 2]) := by
  rcases exec_cases i s with ⟨hd, _⟩ | ⟨_, hf⟩
  · cases i with
    | ret =>
      rcases execRet_next h with rfl | ⟨w, _, rfl⟩
      · exact .inl rfl
      · exact .inr (.inl rfl)
    | call nnn =>
      rcases execCall_next h with ⟨hfull, rfl⟩ | rfl
      · exact .inr (.inr ⟨hfull, rfl⟩)
      · exact .inl rfl
    | _ => exact .inl ((untouched_mayWrite_exec hd h).stack (by simp [mayWrite]))
  · cases hf.symm.trans h
    exact .inl rfl

/-! ### Memory -/

/-- A block store within R54's bounds keeps the canonical form of memory. -/
theorem wf_storeBytes_of_block {base : Word} {bs : List Byte}
    (hb : blockInBounds base bs.length = true) (hm : s.mem.wf = true) :
    (s.storeBytes base.toNat bs).mem.wf = true := by
  rcases (blockInBounds_iff _ _).1 hb with h0 | h
  · rw [List.length_eq_zero_iff.1 h0]; exact hm
  · refine State.wf_storeBytes s _ bs ?_ hm
    simp only [memSize]
    omega

/-- Every instruction, in every state, keeps the canonical form of memory: FX33 and FX55 alone store. -/
theorem exec_wf (h : exec i s = .next t) (hm : s.mem.wf = true) : t.mem.wf = true := by
  cases i with
  | ldBVx x =>
    rcases next_of_check h with ⟨hb, rfl⟩ | rfl
    · exact wf_storeBytes_of_block (s := s.advance) hb hm
    · exact hm
  | ldMemVx x =>
    rcases next_of_check h with ⟨hb, rfl⟩ | rfl
    · exact wf_storeBytes_of_block (s := s.advance) (by rwa [State.length_regsUpTo]) hm
    · exact hm
  | call nnn => rcases execCall_next h with ⟨_, rfl⟩ | rfl <;> exact hm
  | ret => rcases execRet_next h with rfl | ⟨w, _, rfl⟩ <;> exact hm
  | ldVxK x => rcases execLdVxK_next h with ⟨b, rfl⟩ | rfl <;> exact hm
  | seImm x kk | sneImm x kk | seReg x y | sneReg x y | skp x | sknp x =>
    cases h; rw [State.skipIf_eq]; exact hm
  | drw x y n | ldVxMem x =>
    rcases next_of_check h with ⟨_, rfl⟩ | rfl
    · simpa using hm
    · exact hm
  | _ => cases h; exact hm

end

/-! ## What keeps the invariant -/

/-- The pieces of the invariant that no completed instruction writes. -/
def fixedByExec (p : Piece) : Prop := p = .run ∨ p = .fontBase ∨ p = .faultRecord ∨ p = .reports

theorem not_fixedByExec_of_mayWrite {i : Instr} {s : State} {p : Piece} (h : mayWrite s i p) :
    ¬ fixedByExec p := by
  rintro (rfl | rfl | rfl | rfl) <;> cases i <;> simp [mayWrite] at h

namespace State.Inv

theorem reset : State.reset.Inv where
  memory := State.wf_reset
  stackBound := by decide
  returns _ hw := by cases hw
  pcBound := by decide
  fontFits := by decide
  faultRecorded := by decide
  faultPrecise := by decide
  faultClear _ := ⟨rfl, rfl⟩
  reported _ hr := by cases hr

section
variable {s t : State}

theorem faultCause_of_safe (h : s.Inv) (hr : s.Safe) : s.faultCause = .none :=
  Decidable.byContradiction fun hc => hr (h.faultRecorded.2 hc)

/-- While the core runs no fault is on record, so pc is free to move within its bound. -/
theorem of_running (h : s.Inv) (hr : s.run = .running) (frame : Untouched (¬ fixedByExec ·) s t)
    (hm : t.mem.wf = true) (hs : t.sp ≤ stackDepth) (hret : ∀ w ∈ t.stack, w.toNat ≤ 0x1000)
    (hpc : t.pc.toNat ≤ 0x10FE) : t.Inv := by
  have run : t.run = s.run := frame.run (by simp [fixedByExec])
  have fontBase : t.fontBase = s.fontBase := frame.fontBase (by simp [fixedByExec])
  have reports : t.reports = s.reports := frame.reports (by simp [fixedByExec])
  obtain ⟨cause, faultPc, faultOpcode⟩ := frame.faultRecord (by simp [fixedByExec])
  have clear : t.faultCause = .none := cause.trans (h.faultCause_of_safe (by simp [State.Safe, hr]))
  exact
    { memory := hm
      stackBound := hs
      returns := hret
      pcBound := hpc
      fontFits := fontBase ▸ h.fontFits
      faultRecorded := by rw [run, cause]; exact h.faultRecorded
      faultPrecise := fun hc => absurd clear hc
      faultClear := by rw [cause, faultPc, faultOpcode]; exact h.faultClear
      reported := reports ▸ h.reported }

theorem takeFault (h : s.Inv) {c : FaultCause} (hc : c ≠ .none) (op : Word) :
    (s.takeFault c op).Inv :=
  { h with
    faultRecorded := ⟨fun _ => hc, fun _ => rfl⟩
    faultPrecise := fun _ => rfl
    faultClear := fun hn => absurd hn hc }

theorem of_raise (h : s.Inv) {c : FaultCause} (hc : c ≠ .none) {op : Word}
    (he : raise c op s = .next t) : t.Inv := by
  cases he
  exact h.takeFault hc op

theorem report (h : s.Inv) {pc op : Word} {why : UnknownOpcode} (hpc : pc.toNat ≤ 0xFFE)
    (hd : decodeWord op = .unknown why) : (s.report pc op).Inv :=
  { h with
    reported := fun r hr => by
      rcases List.mem_append.1 hr with hr | hr
      · exact h.reported r hr
      · cases List.mem_singleton.1 hr
        exact ⟨⟨why, hd⟩, hpc⟩ }

theorem storeBytes (h : s.Inv) {a : Nat} {bs : List Byte} (ha : a + bs.length ≤ memSize) :
    (s.storeBytes a bs).Inv := by
  rw [State.storeBytes_eq]
  exact { h with memory := State.wf_storeBytes s a bs ha h.memory }

/-! ### Cycles -/

theorem advance (h : s.Inv) (hr : s.run = .running) (hpc : s.pc.toNat ≤ 0xFFE) : s.advance.Inv :=
  h.of_running hr (untouched_advance _ s (by simp [fixedByExec])) h.memory h.stackBound h.returns
    (NextPc.next.bound hpc h.returns)

theorem of_exec {i : Instr} (h : s.Inv) (hr : s.run = .running) (hpc : s.pc.toNat ≤ 0xFFE)
    (he : exec i s = .next t) : t.Inv := by
  rcases exec_cases i s with ⟨hd, _⟩ | ⟨hf, hraise⟩
  case inr => exact h.of_raise hf (hraise.symm.trans he)
  have frame : Untouched (¬ fixedByExec ·) s t :=
    (untouched_mayWrite_exec hd he).mono fun _ => not_fixedByExec_of_mayWrite
  have sp : s.stack.length ≤ stackDepth := h.stackBound
  obtain ⟨hsp, hret⟩ : t.stack.length ≤ stackDepth ∧ ∀ w ∈ t.stack, w.toNat ≤ 0x1000 := by
    rcases exec_stack he with hs | hs | ⟨hfull, hs⟩ <;> rw [hs]
    · exact ⟨sp, h.returns⟩
    · exact ⟨by rw [List.length_dropLast]; omega,
        fun w hw => h.returns w (List.mem_of_mem_dropLast hw)⟩
    · refine ⟨?_, fun w hw => ?_⟩
      · have : s.stack.length ≠ stackDepth := hfull
        rw [List.length_append, List.length_singleton]; omega
      · rcases List.mem_append.1 hw with hw | hw
        · exact h.returns w hw
        · rw [List.mem_singleton.1 hw]; bv_omega
  exact h.of_running hr frame (exec_wf he h.memory) hsp hret ((exec_nextPc he).bound hpc h.returns)

theorem of_cycle (h : s.Inv) (hc : cycle s = .next t) : t.Inv := by
  rcases cycle_cases s with ⟨_, he⟩ | ⟨_, _, he⟩ | ⟨hr, hpc, i, _, he⟩ | ⟨hr, hpc, why, hd, he⟩ <;>
    rw [he] at hc
  case inl => cases hc; exact h
  case inr.inl => exact h.of_raise (by decide) hc
  case inr.inr.inl => exact h.of_exec hr hpc hc
  case inr.inr.inr => cases hc; exact (h.advance hr hpc).report hpc hd

/-! ### Host transactions -/

theorem timerStep (h : s.Inv) : s.timerStep.Inv := { h with }

theorem setFontBase (h : s.Inv) {base : Addr} (hb : base.toNat ≤ maxFontOffset) :
    (s.setFontBase base).Inv := { h with fontFits := hb }

theorem loadFont (h : s.Inv) (offset : Nat) : (s.loadFont offset).Inv := by
  by_cases ho : offset ≤ maxFontOffset
  · have stored : (s.storeBytes offset fontGlyphs).Inv := h.storeBytes (by
      simp only [maxFontOffset, length_fontGlyphs, memSize] at *; omega)
    have base := State.fontBase_loadFont s ho
    rw [State.loadFont_accepted s ho] at base ⊢
    exact stored.setFontBase (base.trans_le ho)
  · rwa [State.loadFont_rejected s (Nat.not_le.1 ho)]

theorem loadRom (h : s.Inv) (bytes : List Byte) : (s.loadRom bytes).Inv := by
  by_cases hb : bytes.length ≤ maxRomLength
  · rw [State.loadRom_accepted s hb]
    exact h.storeBytes (by simp only [maxRomLength, programBase, memSize] at *; omega)
  · rwa [State.loadRom_rejected s (Nat.not_le.1 hb)]

theorem start (h : s.Inv) : s.start.Inv := by
  rcases s.start_cases with ⟨hr, hs⟩ | ⟨_, hs⟩ <;> rw [hs]
  · have clear := h.faultCause_of_safe (by simp [State.Safe, hr])
    exact { h with faultRecorded := by simp [clear] }
  · exact h

theorem of_perform {tx : HostTx} (h : s.Inv) (hp : tx.perform s = .next t) : t.Inv := by
  cases tx with
  | loadFont offset => cases hp; exact h.loadFont offset
  | setKeyState keyId pressed => cases hp; exact { h with }
  | loadRom bytes => cases hp; exact h.loadRom bytes
  | start => cases hp; exact h.start
  | reset => cases hp; exact { State.Inv.reset with }
  | tick _ => exact tickOf_keeps (fun _ _ hs hc => hs.of_cycle hc) (fun _ hs => hs.timerStep) _ h hp
  | cycle => exact h.of_cycle hp
  | timerStep => cases hp; exact h.timerStep
  | readFramebuffer | isSoundActive | isRunning | readStatus => cases hp; exact h

end

end State.Inv

/-- Settles O56: a step is nothing or the pending transaction, and each one keeps the invariant. -/
theorem everyStepKeepsTheInvariant : Obligations.EveryStepKeepsTheInvariant := by
  intro s t h hstep
  rcases step_cases s with ⟨_, hs⟩ | ⟨tx, _, hs⟩ <;> rw [hs] at hstep
  · cases hstep; exact h
  · have taken : s.takeIssued.Inv := { h with }
    exact taken.of_perform hstep

end Sys2Proof.Machine
end

section
/-! PROOFS of the family spec/20_memory.md. A fetch reads its two bytes from memory, so what the next fetch
sees of a store is what a read gives back after it (`fetch_of_readByte`). The canonical form of memory is
followed from an instruction (`exec_wf`) through a cycle and a transaction to a step. -/

namespace Sys2Proof.Machine

/-! ## A fetch and the bytes it reads (R53) -/

section
variable (hi lo : Byte)

@[simp] theorem highByte_wordOfBytes : highByte (wordOfBytes hi lo) = hi := by
  have := lo.isLt
  apply BitVec.eq_of_toNat_eq
  rw [toNat_highByte, toNat_wordOfBytes]
  omega

@[simp] theorem lowByte_wordOfBytes : lowByte (wordOfBytes hi lo) = lo := by
  have := lo.isLt
  apply BitVec.eq_of_toNat_eq
  rw [toNat_lowByte, toNat_wordOfBytes]
  omega

end

section
variable (s : State)

@[simp] theorem State.highByte_fetchWord : highByte s.fetchWord = s.readByte s.pc.toNat :=
  highByte_wordOfBytes _ _

@[simp] theorem State.lowByte_fetchWord : lowByte s.fetchWord = s.readByte (s.pc.toNat + 1) :=
  lowByte_wordOfBytes _ _

theorem State.toNat_fetchWord :
    s.fetchWord.toNat = (s.readByte s.pc.toNat).toNat * 256 + (s.readByte (s.pc.toNat + 1)).toNat :=
  toNat_wordOfBytes _ _

/-- A byte of memory is what a fetch that reaches it has there, as its high or as its low byte. -/
theorem State.fetch_of_readByte {a : Nat} {b : Byte} (h : s.readByte a = b) :
    (s.pc.toNat = a → highByte s.fetchWord = b) ∧ (s.pc.toNat + 1 = a → lowByte s.fetchWord = b) :=
  ⟨fun ha => by rw [s.highByte_fetchWord, ha, h], fun ha => by rw [s.lowByte_fetchWord, ha, h]⟩

end

/-! ## What is read back after a store (R64) -/

section
variable {s t : State} {x : Nibble}

theorem exec_ldMemVx_of_fits (hfit : s.i.toNat + x.toNat ≤ 0xFFF) :
    exec (.ldMemVx x) s = .next (s.advance.storeBytes s.i.toNat (s.advance.regsUpTo x)) :=
  if_pos ((blockInBounds_iff _ _).2 (.inr (by omega)))

theorem exec_ldBVx_of_fits (hfit : s.i.toNat + 2 ≤ 0xFFF) :
    exec (.ldBVx x) s = .next (s.advance.storeBytes s.i.toNat (bcdDigits (s.getV x))) :=
  if_pos ((blockInBounds_iff _ _).2 (.inr (by omega)))

theorem readByte_of_exec_ldMemVx (hfit : s.i.toNat + x.toNat ≤ 0xFFF)
    (h : exec (.ldMemVx x) s = .next t) {y : Nibble} (hy : y.toNat ≤ x.toNat) :
    t.readByte (s.i.toNat + y.toNat) = s.getV y := by
  cases (exec_ldMemVx_of_fits hfit).symm.trans h
  rw [State.readByte_storeBytes_in _ _ _ _ (by rw [State.length_regsUpTo]; omega),
    State.getElem_regsUpTo, BitVec.ofNat_toNat, BitVec.setWidth_eq, State.advance_getV]

theorem readByte_of_exec_ldBVx (hfit : s.i.toNat + 2 ≤ 0xFFF) (h : exec (.ldBVx x) s = .next t)
    {k : Nat} (hk : k < 3) : t.readByte (s.i.toNat + k) = (bcdDigits (s.getV x))[k] := by
  cases (exec_ldBVx_of_fits hfit).symm.trans h
  exact s.advance.readByte_storeBytes_in s.i.toNat (bcdDigits (s.getV x)) k hk

theorem State.readByte_loadRom (s : State) {bytes : List Byte} (hlen : bytes.length ≤ maxRomLength)
    {k : Nat} (hk : k < bytes.length) : (s.loadRom bytes).readByte (programBase + k) = bytes[k] := by
  rw [s.loadRom_accepted hlen]
  exact s.readByte_storeBytes_in programBase bytes k hk

theorem State.loadRom_pc (s : State) {bytes : List Byte} (hlen : bytes.length ≤ maxRomLength) :
    (s.loadRom bytes).pc = s.pc := by
  rw [s.loadRom_accepted hlen, s.storeBytes_pc]

/-- The byte FX33 stores at `I + k` is the decimal digit the spec names for `k` (R163). -/
theorem bcdDigits_eq_digit {b : Byte} {k digit : Nat}
    (h : (k, digit) ∈ [(0, b.toNat / 100), (1, b.toNat / 10 % 10), (2, b.toNat % 10)]) :
    ∃ hk : k < 3, ((bcdDigits b)[k]).toNat = digit := by
  simp only [List.mem_cons, List.not_mem_nil, or_false, Prod.mk.injEq] at h
  rcases h with ⟨rfl, rfl⟩ | ⟨rfl, rfl⟩ | ⟨rfl, rfl⟩ <;> exact ⟨by decide, rfl⟩

end

/-- Settles O14: each of the three stores is read back, and the next fetch reads the same memory. -/
theorem storedBytesAreFetchedNext : Obligations.StoredBytesAreFetchedNext := by
  refine ⟨fun s t x hfit h y hy => ?_, fun s t x hfit h k digit hd => ?_, fun s bytes k hk hlen => ?_⟩
  · exact t.fetch_of_readByte (readByte_of_exec_ldMemVx hfit h hy)
  · obtain ⟨hk, hdigit⟩ := bcdDigits_eq_digit hd
    obtain ⟨high, low⟩ := t.fetch_of_readByte (readByte_of_exec_ldBVx hfit h hk)
    exact ⟨fun hpc => by rw [high hpc, hdigit], fun hpc => by rw [low hpc, hdigit]⟩
  · have fetched := (s.loadRom bytes).fetch_of_readByte (s.readByte_loadRom hlen hk)
    rwa [s.loadRom_pc hlen] at fetched

/-! ## The canonical form of memory -/

section
variable {s t : State}

theorem cycle_wf (h : cycle s = .next t) (hm : s.mem.wf = true) : t.mem.wf = true := by
  rcases cycle_cases s with ⟨_, hc⟩ | ⟨_, _, hc⟩ | ⟨_, _, i, _, hc⟩ | ⟨_, _, _, _, hc⟩ <;> rw [hc] at h
  case inr.inr.inl => exact exec_wf h hm
  all_goals cases h; exact hm

/-- Of the transactions, the two loads store, `reset` clears, and a tick and `Cycle()` run cycles. -/
theorem HostTx.perform_wf {tx : HostTx} (h : tx.perform s = .next t) (hm : s.mem.wf = true) :
    t.mem.wf = true := by
  cases tx with
  | loadFont offset => cases h; exact s.wf_loadFont offset hm
  | loadRom bytes => cases h; exact s.wf_loadRom bytes hm
  | reset => cases h; exact State.wf_reset
  | tick _ =>
    exact tickOf_keeps (P := fun u => u.mem.wf = true) (fun _ _ hu hc => cycle_wf hc hu)
      (fun _ hu => hu) _ hm h
  | cycle => exact cycle_wf h hm
  | start => cases h; rcases s.start_cases with ⟨_, hs⟩ | ⟨_, hs⟩ <;> rw [hs] <;> exact hm
  | setKeyState _ _ | timerStep | readFramebuffer | isSoundActive | isRunning | readStatus =>
    cases h; exact hm

end

/-- Settles O57: a step is nothing or the pending transaction, and each one keeps the form. -/
theorem everyStepKeepsMemoryCanonical : Obligations.EveryStepKeepsMemoryCanonical := by
  intro s t hm hstep
  rcases step_cases s with ⟨_, hs⟩ | ⟨tx, _, hs⟩ <;> rw [hs] at hstep
  · cases hstep; exact hm
  · exact HostTx.perform_wf hstep hm

/-! ## Fetch, byte writes and the reset content -/

/-- Settles O6: the first two bytes of a program stand at 0x200 and 0x201, where pc is after reset. -/
theorem fetchIsBigEndianAtAnyPc : Obligations.FetchIsBigEndianAtAnyPc := by
  refine ⟨State.toNat_fetchWord, fun b0 b1 rest hlen => ?_⟩
  have fits : (b0 :: b1 :: rest).length ≤ maxRomLength := hlen
  have hpc : (State.reset.loadRom (b0 :: b1 :: rest)).pc = 0x200 := State.reset.loadRom_pc fits
  have h0 : (State.reset.loadRom (b0 :: b1 :: rest)).readByte 0x200 = b0 :=
    State.reset.readByte_loadRom fits (k := 0) (by simp)
  have h1 : (State.reset.loadRom (b0 :: b1 :: rest)).readByte 0x201 = b1 :=
    State.reset.readByte_loadRom fits (k := 1) (by simp)
  exact ⟨hpc, by simp [State.toNat_fetchWord, hpc, h0, h1]⟩

/-- Settles O12, by the law of a read after a write and the frame of a byte write. -/
theorem byteWriteSetsExactlyItsByte : Obligations.ByteWriteSetsExactlyItsByte :=
  fun s a b _ => ⟨s.readByte_writeByte_same a b, untouched_writeByte _ s a b rfl⟩

/-- After reset no cell is listed, so a read gives the reset content (R59). -/
theorem State.readByte_reset (a : Nat) : State.reset.readByte a = resetByte a := rfl

theorem resetByte_eq (a : Nat) :
    resetByte a = if h : a < fontGlyphs.length then fontGlyphs[a] else 0 := by
  unfold resetByte
  split
  case isTrue h => exact List.getD_eq_getElem _ _ h
  case isFalse h => exact List.getD_eq_default _ _ (Nat.not_lt.1 h)

/-- Settles O13: memory lists nothing after reset, so it reads as the font, then zeros. -/
theorem resetMemoryIsTheFontThenZeros : Obligations.ResetMemoryIsTheFontThenZeros :=
  ⟨length_fontGlyphs, fun a _ => by rw [State.readByte_reset, resetByte_eq]⟩

end Sys2Proof.Machine
end

section
/-! PROOFS of the family spec/30_encoding.md. The decoder looks at a few fields of the word alone: the
family, and within the families 0x0, 0x8, 0xE and 0xF the low byte or the low nibble. Decoding an encoded
word, the list of unknown opcodes and the opcode table are each read off these fields. The cycle and the
step then follow from everything an instruction can do (`exec_cases`). -/

namespace Sys2Proof

/-! ## The families in which the low byte or the low nibble decides (R74) -/

section
variable {op : Word}

theorem decodeWord_family0 (h : opFamily op = 0x0) : decodeWord op = decodeFamily0 op := if_pos h

theorem decodeWord_family8 (h : opFamily op = 0x8) : decodeWord op = decodeFamily8 op := by
  simp [decodeWord, h]

theorem decodeWord_familyE (h : opFamily op = 0xE) : decodeWord op = decodeFamilyE op := by
  simp [decodeWord, h]

theorem decodeWord_familyF (h : opFamily op = 0xF) : decodeWord op = decodeFamilyF op := by
  simp [decodeWord, h]

/-- In the other families the family alone names the row. -/
theorem decodeWord_other_family (h : opFamily op ∉ [0x0, 0x8, 0xE, 0xF]) :
    ∃ i, decodeWord op = .instr i ∧ i.row = ⟨0xF000, wordXYN (opFamily op) 0 0 0⟩ := by
  have cases := decodeWord_cases op
  simp only [List.mem_cons, List.not_mem_nil, or_false, not_or] at h
  simp only [h, false_and, false_or, or_false] at cases
  rcases cases with ⟨hf, hd⟩ | ⟨hf, hd⟩ | ⟨hf, hd⟩ | ⟨hf, hd⟩ | ⟨hf, hd⟩ | ⟨hf, hd⟩ | ⟨hf, hd⟩ |
    ⟨hf, hd⟩ | ⟨hf, hd⟩ | ⟨hf, hd⟩ | ⟨hf, hd⟩ | ⟨hf, hd⟩ <;> exact ⟨_, hd, by rw [hf]; rfl⟩

/-- What the decoder looks at beside the family: more fields in four families, none in the others. -/
theorem decodeWord_by_family (op : Word) :
    opFamily op = 0x0 ∧ decodeWord op = decodeFamily0 op ∨
    opFamily op = 0x8 ∧ decodeWord op = decodeFamily8 op ∨
    opFamily op = 0xE ∧ decodeWord op = decodeFamilyE op ∨
    opFamily op = 0xF ∧ decodeWord op = decodeFamilyF op ∨
    (opFamily op ∉ [0x0, 0x8, 0xE, 0xF] ∧
      ∃ i, decodeWord op = .instr i ∧ i.row = ⟨0xF000, wordXYN (opFamily op) 0 0 0⟩) := by
  by_cases h : opFamily op ∈ [0x0, 0x8, 0xE, 0xF]
  · simp only [List.mem_cons, List.not_mem_nil, or_false] at h
    rcases h with h | h | h | h
    · exact .inl ⟨h, decodeWord_family0 h⟩
    · exact .inr (.inl ⟨h, decodeWord_family8 h⟩)
    · exact .inr (.inr (.inl ⟨h, decodeWord_familyE h⟩))
    · exact .inr (.inr (.inr (.inl ⟨h, decodeWord_familyF h⟩)))
  · exact .inr (.inr (.inr (.inr ⟨h, decodeWord_other_family h⟩)))

/-- Everything the family 0x0 can answer. -/
theorem decodeFamily0_cases (op : Word) :
    opKK op = 0xE0 ∧ decodeFamily0 op = .instr .cls ∨
    opKK op = 0xEE ∧ decodeFamily0 op = .instr .ret ∨
    ((opKK op ≠ 0xE0 ∧ opKK op ≠ 0xEE) ∧ decodeFamily0 op = .unknown .family0) := by
  unfold decodeFamily0
  split_ifs <;> simp_all

/-- Everything the family 0xE can answer. -/
theorem decodeFamilyE_cases (op : Word) :
    opKK op = 0x9E ∧ decodeFamilyE op = .instr (.skp (opX op)) ∨
    opKK op = 0xA1 ∧ decodeFamilyE op = .instr (.sknp (opX op)) ∨
    ((opKK op ≠ 0x9E ∧ opKK op ≠ 0xA1) ∧ decodeFamilyE op = .unknown .familyE) := by
  unfold decodeFamilyE
  split_ifs <;> simp_all

end

/-! ## Decoding an encoded word -/

/-- Settles O1, family by family: the fields of the encoded word are the operands, and the family with
its selector leads the decision tree to the instruction's own branch. -/
theorem decodeOfEncodeIsTheInstruction : Obligations.DecodeOfEncodeIsTheInstruction := by
  intro i
  cases i with
  | cls | ret => rfl
  | jp nnn | call nnn | ldI nnn | jpV0 nnn | seImm x kk | sneImm x kk | ldImm x kk | addImm x kk
  | rnd x kk | seReg x y | sneReg x y | drw x y n => simp [encode, decodeWord]
  | ldReg x y | orReg x y | andReg x y | xorReg x y | addReg x y | sub x y | shr x y | subn x y
  | shl x y =>
    exact (decodeWord_family8 (opFamily_wordXYN ..)).trans (by simp [decodeFamily8])
  | skp x | sknp x =>
    exact (decodeWord_familyE (opFamily_wordXKK ..)).trans (by simp [decodeFamilyE])
  | ldVxDt x | ldVxK x | ldDtVx x | ldStVx x | addIVx x | ldFVx x | ldBVx x | ldMemVx x | ldVxMem x =>
    exact (decodeWord_familyF (opFamily_wordXKK ..)).trans (by simp [decodeFamilyF])

/-- Settles O5: each of the words is the canonical word of its instruction. -/
theorem sampleWordsDecodeAsTheTableSays : Obligations.SampleWordsDecodeAsTheTableSays :=
  ⟨decodeOfEncodeIsTheInstruction .cls,
    decodeOfEncodeIsTheInstruction (.call 0x210),
    decodeOfEncodeIsTheInstruction (.seImm 0x3 0x42),
    decodeOfEncodeIsTheInstruction (.shl 0xA 0x5),
    decodeOfEncodeIsTheInstruction (.ldI 0x300),
    decodeOfEncodeIsTheInstruction (.drw 0x1 0x2 0x5),
    decodeOfEncodeIsTheInstruction (.sknp 0x1),
    decodeOfEncodeIsTheInstruction (.ldMemVx 0x3)⟩

/-- Settles O4: no branch of the tree looks at the ignored bits, and SHR and SHL do not look at Y. -/
theorem ignoredBitsMakeNoDifference : Obligations.IgnoredBitsMakeNoDifference := by
  refine ⟨fun n => ?_, fun x y n => ?_, fun x y y' s => ⟨rfl, rfl⟩⟩
  · rw [decodeWord_family0 (opFamily_wordXKK ..), decodeWord_family0 (opFamily_wordXKK ..)]
    simp [decodeFamily0]
  · simp [decodeWord]

/-! ## The unknown opcodes (R80) -/

section
variable (op : Word)

theorem decodeFamily0_unknown_iff :
    (∃ why, decodeFamily0 op = .unknown why) ↔ opKK op ≠ 0xE0 ∧ opKK op ≠ 0xEE := by
  rcases decodeFamily0_cases op with ⟨h, hd⟩ | ⟨h, hd⟩ | ⟨h, hd⟩
  · simp [hd, h]
  · simp [hd, h]
  · simpa [hd] using h

theorem decodeFamilyE_unknown_iff :
    (∃ why, decodeFamilyE op = .unknown why) ↔ opKK op ≠ 0x9E ∧ opKK op ≠ 0xA1 := by
  rcases decodeFamilyE_cases op with ⟨h, hd⟩ | ⟨h, hd⟩ | ⟨h, hd⟩
  · simp [hd, h]
  · simp [hd, h]
  · simpa [hd] using h

theorem decodeFamily8_unknown_iff : (∃ why, decodeFamily8 op = .unknown why) ↔
    (0x8 ≤ (opN op).toNat ∧ (opN op).toNat ≤ 0xD) ∨ opN op = 0xF := by
  rcases decodeFamily8_cases op with ⟨h, hd⟩ | ⟨h, hd⟩ | ⟨h, hd⟩ | ⟨h, hd⟩ | ⟨h, hd⟩ | ⟨h, hd⟩ |
    ⟨h, hd⟩ | ⟨h, hd⟩ | ⟨h, hd⟩ | ⟨h, hd⟩
  case inr.inr.inr.inr.inr.inr.inr.inr.inr => simpa [hd] using h
  all_goals simp [hd, h]

theorem decodeFamilyF_unknown_iff : (∃ why, decodeFamilyF op = .unknown why) ↔
    opKK op ∉ [0x07, 0x0A, 0x15, 0x18, 0x1E, 0x29, 0x33, 0x55, 0x65] := by
  rcases decodeFamilyF_cases op with ⟨h, hd⟩ | ⟨h, hd⟩ | ⟨h, hd⟩ | ⟨h, hd⟩ | ⟨h, hd⟩ | ⟨h, hd⟩ |
    ⟨h, hd⟩ | ⟨h, hd⟩ | ⟨h, hd⟩ | ⟨h, hd⟩
  case inr.inr.inr.inr.inr.inr.inr.inr.inr => simpa [hd] using h
  all_goals simp [hd, h]

/-- The unknown opcodes by the fields the decoder looks at. -/
theorem decodeWord_unknown_iff : (∃ why, decodeWord op = .unknown why) ↔
    (opFamily op = 0x0 ∧ opKK op ≠ 0xE0 ∧ opKK op ≠ 0xEE) ∨
    (opFamily op = 0x8 ∧ ((0x8 ≤ (opN op).toNat ∧ (opN op).toNat ≤ 0xD) ∨ opN op = 0xF)) ∨
    (opFamily op = 0xE ∧ opKK op ≠ 0x9E ∧ opKK op ≠ 0xA1) ∨
    (opFamily op = 0xF ∧ opKK op ∉ [0x07, 0x0A, 0x15, 0x18, 0x1E, 0x29, 0x33, 0x55, 0x65]) := by
  rw [← decodeFamily0_unknown_iff, ← decodeFamily8_unknown_iff, ← decodeFamilyE_unknown_iff,
    ← decodeFamilyF_unknown_iff]
  rcases decodeWord_by_family op with ⟨hf, hd⟩ | ⟨hf, hd⟩ | ⟨hf, hd⟩ | ⟨hf, hd⟩ | ⟨hf, i, hd, _⟩
  case inr.inr.inr.inr =>
    simp only [List.mem_cons, List.not_mem_nil, or_false, not_or] at hf
    simp only [hd, hf, false_and, or_false, reduceCtorEq, exists_false]
  all_goals simp [hd, hf]

/-! The same fields as numbers. -/

theorem opFamily_eq_iff (f : Nibble) : opFamily op = f ↔ op.toNat / 0x1000 = f.toNat := by
  have := op.isLt
  rw [← BitVec.toNat_inj, toNat_opFamily]
  omega

theorem opN_eq_iff (n : Nibble) : opN op = n ↔ op.toNat % 0x10 = n.toNat := by
  rw [← BitVec.toNat_inj, toNat_opN]

theorem opKK_eq_iff (kk : Byte) : opKK op = kk ↔ op.toNat % 0x100 = kk.toNat := by
  rw [← BitVec.toNat_inj, toNat_opKK]

end

/-! ## The opcode table -/

/-- The row of what the decoder answers, if it is an instruction (tied to the decoder by
`Decoded.row?_eq_some_iff`). -/
def Decoded.row? : Decoded → Option Row
  | .instr i => some i.row
  | .unknown _ => none

@[simp] theorem Decoded.row?_instr (i : Instr) : (Decoded.instr i).row? = some i.row := rfl

@[simp] theorem Decoded.row?_unknown (why : UnknownOpcode) : (Decoded.unknown why).row? = none := rfl

theorem Decoded.row?_eq_some_iff {d : Decoded} {r : Row} :
    d.row? = some r ↔ ∃ i, d = .instr i ∧ i.row = r := by
  cases d <;> simp

section
variable {op p : Word}

/-! ### The row of a word is decided by the fields the decoder looks at -/

theorem row?_decodeFamily0_congr (h : opKK op = opKK p) :
    (decodeFamily0 op).row? = (decodeFamily0 p).row? := by
  rw [decodeFamily0, decodeFamily0, h]

theorem row?_decodeFamily8_congr (h : opN op = opN p) :
    (decodeFamily8 op).row? = (decodeFamily8 p).row? := by
  simp only [decodeFamily8, h, apply_ite Decoded.row?, Decoded.row?_instr, Decoded.row?_unknown,
    Instr.row]

theorem row?_decodeFamilyE_congr (h : opKK op = opKK p) :
    (decodeFamilyE op).row? = (decodeFamilyE p).row? := by
  simp only [decodeFamilyE, h, apply_ite Decoded.row?, Decoded.row?_instr, Decoded.row?_unknown,
    Instr.row]

theorem row?_decodeFamilyF_congr (h : opKK op = opKK p) :
    (decodeFamilyF op).row? = (decodeFamilyF p).row? := by
  simp only [decodeFamilyF, h, apply_ite Decoded.row?, Decoded.row?_instr, Decoded.row?_unknown,
    Instr.row]

theorem row?_decodeWord_congr (hf : opFamily op = opFamily p)
    (hn : opFamily p = 0x8 → opN op = opN p)
    (hkk : opFamily p ∈ [0x0, 0xE, 0xF] → opKK op = opKK p) :
    (decodeWord op).row? = (decodeWord p).row? := by
  rcases decodeWord_by_family p with ⟨h, hd⟩ | ⟨h, hd⟩ | ⟨h, hd⟩ | ⟨h, hd⟩ | ⟨h, i, hd, hrow⟩
  · rw [hd, decodeWord_family0 (hf.trans h)]
    exact row?_decodeFamily0_congr (hkk (by simp [h]))
  · rw [hd, decodeWord_family8 (hf.trans h)]
    exact row?_decodeFamily8_congr (hn h)
  · rw [hd, decodeWord_familyE (hf.trans h)]
    exact row?_decodeFamilyE_congr (hkk (by simp [h]))
  · rw [hd, decodeWord_familyF (hf.trans h)]
    exact row?_decodeFamilyF_congr (hkk (by simp [h]))
  · obtain ⟨j, hdj, hrowj⟩ := decodeWord_other_family (op := op) (by rwa [hf])
    rw [hd, hdj, Decoded.row?_instr, Decoded.row?_instr, hrow, hrowj, hf]

/-! ### A row's mask covers those fields -/

theorem opFamily_and (a b : Word) : opFamily (a &&& b) = opFamily a &&& opFamily b :=
  BitVec.extractLsb'_and

theorem opN_and (a b : Word) : opN (a &&& b) = opN a &&& opN b := BitVec.extractLsb'_and

theorem opKK_and (a b : Word) : opKK (a &&& b) = opKK a &&& opKK b := BitVec.extractLsb'_and

theorem opcodeTable_masks : ∀ r ∈ opcodeTable, opFamily r.mask = 0xF ∧
    (opFamily r.pattern = 0x8 → opN r.mask = 0xF) ∧
    (opFamily r.pattern ∈ [0x0, 0xE, 0xF] → opKK r.mask = 0xFF) := by
  decide

/-- The bare pattern of a row is a word of that row. -/
theorem row?_decodeWord_pattern :
    ∀ r ∈ opcodeTable, (decodeWord r.pattern).row? = some r := by
  decide

/-- A word with the fixed bits of a row decodes as the row's bare pattern does. -/
theorem row?_decodeWord_of_matches {r : Row} (hr : r ∈ opcodeTable) (h : r.matches op = true) :
    (decodeWord op).row? = some r := by
  have hp : op &&& r.mask = r.pattern := beq_iff_eq.1 h
  obtain ⟨hf, hn, hkk⟩ := opcodeTable_masks r hr
  rw [← row?_decodeWord_pattern r hr]
  apply row?_decodeWord_congr
  · rw [← hp, opFamily_and, hf, nibble_and_F]
  · intro h8
    rw [← hp, opN_and, hn h8, nibble_and_F]
  · intro hlow
    rw [← hp, opKK_and, hkk hlow, byte_and_FF]

theorem Instr.row_mem_opcodeTable (i : Instr) : i.row ∈ opcodeTable := by
  have h : i.wellFormed = true := by cases i <;> rfl
  exact List.contains_iff_mem.1 h

/-! ### A word that decodes to an instruction has the fixed bits of its row -/

section
variable {i : Instr}

theorem matches_of_decodeFamily0 (hf : opFamily op = 0x0) (h : decodeFamily0 op = .instr i) :
    i.row.matches op = true := by
  rcases decodeFamily0_cases op with ⟨hk, hd⟩ | ⟨hk, hd⟩ | ⟨_, hd⟩ <;> cases hd.symm.trans h
  · exact (matches_F0FF_iff op 0x0 0xE0).2 ⟨hf, hk⟩
  · exact (matches_F0FF_iff op 0x0 0xEE).2 ⟨hf, hk⟩

theorem matches_of_decodeFamilyE (hf : opFamily op = 0xE) (h : decodeFamilyE op = .instr i) :
    i.row.matches op = true := by
  rcases decodeFamilyE_cases op with ⟨hk, hd⟩ | ⟨hk, hd⟩ | ⟨_, hd⟩ <;> cases hd.symm.trans h
  · exact (matches_F0FF_iff op 0xE 0x9E).2 ⟨hf, hk⟩
  · exact (matches_F0FF_iff op 0xE 0xA1).2 ⟨hf, hk⟩

theorem matches_of_decodeFamily8 (hf : opFamily op = 0x8) (h : decodeFamily8 op = .instr i) :
    i.row.matches op = true := by
  rcases decodeFamily8_cases op with ⟨hn, hd⟩ | ⟨hn, hd⟩ | ⟨hn, hd⟩ | ⟨hn, hd⟩ | ⟨hn, hd⟩ | ⟨hn, hd⟩ |
    ⟨hn, hd⟩ | ⟨hn, hd⟩ | ⟨hn, hd⟩ | ⟨_, hd⟩ <;> cases hd.symm.trans h
  all_goals exact ((matches_F00F_iff op 0x8 _).2 ⟨hf, hn⟩ :)

theorem matches_of_decodeFamilyF (hf : opFamily op = 0xF) (h : decodeFamilyF op = .instr i) :
    i.row.matches op = true := by
  rcases decodeFamilyF_cases op with ⟨hk, hd⟩ | ⟨hk, hd⟩ | ⟨hk, hd⟩ | ⟨hk, hd⟩ | ⟨hk, hd⟩ | ⟨hk, hd⟩ |
    ⟨hk, hd⟩ | ⟨hk, hd⟩ | ⟨hk, hd⟩ | ⟨_, hd⟩ <;> cases hd.symm.trans h
  all_goals exact ((matches_F0FF_iff op 0xF _).2 ⟨hf, hk⟩ :)

theorem matches_of_decodeWord (h : decodeWord op = .instr i) : i.row.matches op = true := by
  rcases decodeWord_by_family op with ⟨hf, hd⟩ | ⟨hf, hd⟩ | ⟨hf, hd⟩ | ⟨hf, hd⟩ | ⟨_, j, hd, hrow⟩ <;>
    rw [hd] at h
  · exact matches_of_decodeFamily0 hf h
  · exact matches_of_decodeFamily8 hf h
  · exact matches_of_decodeFamilyE hf h
  · exact matches_of_decodeFamilyF hf h
  · cases h
    rw [hrow]
    exact (matches_F000_iff op _).2 rfl

end

theorem matches_iff_decodeWord {r : Row} (hr : r ∈ opcodeTable) :
    r.matches op = true ↔ ∃ i, decodeWord op = .instr i ∧ i.row = r := by
  constructor
  · exact fun h => Decoded.row?_eq_some_iff.1 (row?_decodeWord_of_matches hr h)
  · rintro ⟨i, hd, rfl⟩
    exact matches_of_decodeWord hd

theorem wellFormedWord_iff_decodeWord : wellFormedWord op = true ↔ ∃ i, decodeWord op = .instr i := by
  rw [wellFormedWord, List.any_eq_true]
  constructor
  · rintro ⟨r, hr, hm⟩
    obtain ⟨i, hd, _⟩ := (matches_iff_decodeWord hr).1 hm
    exact ⟨i, hd⟩
  · rintro ⟨i, hd⟩
    exact ⟨i.row, i.row_mem_opcodeTable, matches_of_decodeWord hd⟩

end

/-- Settles O3, row by row, and the table as a whole from its rows. -/
theorem decoderAgreesWithOpcodeTable : Obligations.DecoderAgreesWithOpcodeTable :=
  ⟨fun _ _ hr => matches_iff_decodeWord hr, fun _ => wellFormedWord_iff_decodeWord⟩

end Sys2Proof

namespace Sys2Proof.Machine

/-! ## The cycle at an unknown opcode, and at the end of memory -/

/-- R80: an unknown opcode moves pc past it and is reported (R247), and that is all. -/
theorem cycle_unknown_spec {s : State} {why : UnknownOpcode} (hr : s.run = .running)
    (hpc : s.pc.toNat ≤ 0xFFE) (hd : decodeWord s.fetchWord = .unknown why) :
    ∃ t, cycle s = .next t ∧ t.pc = s.pc + 2 ∧
      t.reports = s.reports ++ [⟨.unknownOpcode, s.pc, s.fetchWord⟩] ∧
      Untouched (fun p => p = .pc ∨ p = .reports) s t :=
  ⟨_, cycle_of_unknown hr hpc hd, rfl, rfl,
    (untouched_advance _ s (.inl rfl)).trans (untouched_report _ _ _ _ (.inr rfl))⟩

/-- Settles O2: the fields of `decodeWord_unknown_iff` read as numbers, and the cycle at such a word. -/
theorem unknownOpcodesAreReportedNoOps : Obligations.UnknownOpcodesAreReportedNoOps := by
  refine ⟨fun op => ?_, fun _ _ => cycle_unknown_spec⟩
  rw [decodeWord_unknown_iff]
  simp [opFamily_eq_iff, opN_eq_iff, opKK_eq_iff, toNat_opN]

theorem dueFault_ne_fetchOutOfBounds (s : State) (i : Instr) : dueFault s i ≠ .fetchOutOfBounds := by
  cases i with
  | call _ | drw _ _ _ | ldBVx _ | ldMemVx _ | ldVxMem _ => rw [dueFault]; split <;> decide
  | _ => exact nofun

/-- An instruction never records a fetch fault: it keeps the record, or enters the fault that is due. -/
theorem exec_faultCause {i : Instr} {s t : State} (h : exec i s = .next t) :
    t.faultCause = s.faultCause ∨ t.faultCause = dueFault s i := by
  rcases exec_cases i s with ⟨hd, _⟩ | ⟨_, hf⟩
  · exact .inl ((untouched_mayWrite_exec hd h).faultRecord fun hw =>
      not_fixedByExec_of_mayWrite hw (by simp [fixedByExec])).1
  · cases hf.symm.trans h
    exact .inr rfl

/-- Settles O9: past 0xFFE the cycle is the fault entry, and up to there no cause it records is one of the
fetch. -/
theorem fetchPastMemoryFaults : Obligations.FetchPastMemoryFaults := by
  refine ⟨fun s hr hpc => ?_, fun s t hr hpc hclear hc => ?_⟩
  · rw [cycle_of_past_memory hr hpc]
    exact raise_spec .fetchOutOfBounds 0 s
  · rcases cycle_cases s with ⟨hn, _⟩ | ⟨_, hpast, _⟩ | ⟨_, _, i, _, he⟩ | ⟨_, _, _, _, he⟩
    · exact absurd hr hn
    · omega
    · rcases exec_faultCause (he.symm.trans hc) with h | h <;> rw [h]
      · exact hclear
      · exact dueFault_ne_fetchOutOfBounds s i
    · cases he.symm.trans hc
      exact hclear

/-! ## The step -/

/-- Settles O7: the pending `Cycle()` is performed after it is taken off the inbox, which no fetch sees. -/
theorem stepRunsTheDecodedInstruction : Obligations.StepRunsTheDecodedInstruction := by
  intro s i hp hr hpc hd
  have hstep : step s = exec i s.takeIssued :=
    (step_of_pending hp).trans (cycle_of_instr hr hpc hd)
  exact ⟨hstep, fun hi => by rw [hstep, State.takeIssued_of_empty hi]⟩

/-! ## Everything answers a next state -/

theorem exec_answers (i : Instr) (s : State) : ∃ t, exec i s = .next t := by
  rcases exec_cases i s with ⟨_, t, ht, _⟩ | ⟨_, hf⟩
  · exact ⟨t, ht⟩
  · exact ⟨_, hf⟩

theorem cycle_answers (s : State) : ∃ t, cycle s = .next t := by
  rcases cycle_cases s with ⟨_, hc⟩ | ⟨_, _, hc⟩ | ⟨_, _, i, _, hc⟩ | ⟨_, _, _, _, hc⟩
  · exact ⟨_, hc⟩
  · exact ⟨_, hc⟩
  · rw [hc]; exact exec_answers i s
  · exact ⟨_, hc⟩

theorem runFrame_answers (n : Nat) (s : State) : ∃ t, runFrame n s = .next t := by
  induction n generalizing s with
  | zero => exact ⟨_, rfl⟩
  | succ n ih =>
    obtain ⟨u, hu⟩ := cycle_answers s
    by_cases hr : u.run = .running
    · obtain ⟨t, ht⟩ := ih u
      exact ⟨t, by simp [runFrame, hu, hr, ht]⟩
    · exact ⟨u, by simp [runFrame, hu, hr]⟩

theorem tickOf_answers (n : Nat) (s : State) : ∃ t, tickOf n s = .next t := by
  by_cases hr : s.run = .running
  · rw [tickOf_of_running n hr]; exact runFrame_answers n s
  · exact ⟨s, tickOf_of_not_running n hr⟩

theorem HostTx.perform_answers (tx : HostTx) (s : State) : ∃ t, tx.perform s = .next t := by
  cases tx with
  | tick _ => exact tickOf_answers _ s
  | cycle => exact cycle_answers s
  | _ => exact ⟨_, rfl⟩

/-- Settles O11: every instruction completes or enters its fault, and so every transaction answers, a tick
by induction on the cycles left. -/
theorem everyStepAnswersANextState : Obligations.EveryStepAnswersANextState := by
  refine ⟨exec_answers, fun s => ?_⟩
  rcases step_cases s with ⟨_, hs⟩ | ⟨tx, _, hs⟩
  · exact ⟨s, hs⟩
  · rw [hs]; exact HostTx.perform_answers tx s.takeIssued

end Sys2Proof.Machine
end

section
/-! PROOFS of the family spec/40_control_flow.md. The jumps and skips share one shape, the fetch advance
and then a new pc, so they share its frame. CALL and RET have an equation per case of the stack, and their
round trip needs only what the two leave on it, whatever ran in between. -/

namespace Sys2Proof.Machine

/-! ## The fetch advance and then a new pc -/

theorem untouched_advance_setPc (c : Piece → Prop) (s : State) (w : Word) (h : c .pc) :
    Untouched c s (s.advance.setPc w) :=
  (untouched_advance c s h).trans (untouched_setPc c _ w h)

/-- R105: a skip steps over the two bytes after the advanced pc, or over nothing. -/
theorem State.advance_skipIf (s : State) (c : Bool) :
    s.advance.skipIf c = s.advance.setPc (if c then s.pc + 2 + 2 else s.pc + 2) :=
  State.skipIf_eq s.advance c

/-- A skip instruction in every state, its condition `c` read as the proposition `p`. -/
theorem exec_skip_spec {i : Instr} {s : State} {c : Bool} {p : Prop} [Decidable p]
    (hc : c = true ↔ p) (he : exec i s = .next (s.advance.skipIf c)) :
    ∃ t, exec i s = .next t ∧ t.pc = (if p then s.pc + 2 + 2 else s.pc + 2) ∧
      Untouched (fun q => q = .pc) s t := by
  rw [State.advance_skipIf, if_congr hc rfl rfl] at he
  exact ⟨_, he, rfl, untouched_advance_setPc _ s _ rfl⟩

/-! ## The jumps (R101, R104) -/

/-- Settles O16: the jump is the advance and then the target. -/
theorem jumpSetsPcToItsAddress : Obligations.JumpSetsPcToItsAddress :=
  fun s nnn => ⟨_, rfl, toNat_immWord nnn, untouched_advance_setPc _ s _ rfl⟩

/-- R104: a 12-bit address and a byte never overflow the 16-bit sum. -/
theorem State.toNat_immWord_add_wideV (s : State) (nnn : Addr) (x : Nibble) :
    (immWord nnn + s.wideV x).toNat = nnn.toNat + (s.getV x).toNat := by
  have := nnn.isLt
  have := (s.getV x).isLt
  rw [BitVec.toNat_add_of_lt (by rw [toNat_immWord, s.toNat_wideV]; omega), toNat_immWord,
    s.toNat_wideV]

/-- Settles O20: the advance leaves V[0] alone, and the sum is exact. -/
theorem jumpWithOffsetAddsV0Exactly : Obligations.JumpWithOffsetAddsV0Exactly :=
  fun s nnn => ⟨_, rfl, s.toNat_immWord_add_wideV nnn 0, untouched_advance_setPc _ s _ rfl⟩

/-! ## The skips (R106 to R109) -/

section
variable (s : State) (x y : Nibble)

theorem exec_seReg_spec : ∃ t, exec (.seReg x y) s = .next t ∧
    t.pc = (if s.getV x = s.getV y then s.pc + 2 + 2 else s.pc + 2) ∧
    Untouched (fun p => p = .pc) s t :=
  exec_skip_spec beq_iff_eq rfl

theorem exec_sneReg_spec : ∃ t, exec (.sneReg x y) s = .next t ∧
    t.pc = (if s.getV x ≠ s.getV y then s.pc + 2 + 2 else s.pc + 2) ∧
    Untouched (fun p => p = .pc) s t :=
  exec_skip_spec bne_iff_ne rfl

end

/-- Settles O21: both are skips, on equality with KK and on its negation. -/
theorem immediateSkipsStepOverTwoBytes : Obligations.ImmediateSkipsStepOverTwoBytes :=
  fun _ _ _ => ⟨exec_skip_spec beq_iff_eq rfl, exec_skip_spec bne_iff_ne rfl⟩

/-- Settles O22: both are skips on the two registers, and a register is equal to itself. -/
theorem registerSkipsCompareTwoRegisters : Obligations.RegisterSkipsCompareTwoRegisters := by
  refine fun s x y => ⟨exec_seReg_spec s x y, exec_sneReg_spec s x y, ?_⟩
  obtain ⟨t, ht, htpc, _⟩ := exec_seReg_spec s x x
  obtain ⟨u, hu, hupc, _⟩ := exec_sneReg_spec s x x
  exact ⟨t, u, ht, htpc.trans (if_pos rfl), hu, hupc.trans (if_neg fun h => h rfl)⟩

/-! ## Call and return (R100, R102, R103) -/

section
variable {s : State}

theorem exec_call_of_room (nnn : Addr) (h : s.stack.length < 16) :
    exec (.call nnn) s = .next ((s.advance.push s.advance.pc).setPc (immWord nnn)) :=
  if_neg (Nat.ne_of_lt h)

theorem exec_call_of_full (nnn : Addr) (h : s.stack.length = 16) :
    exec (.call nnn) s = raise .stackOverflow (encode (.call nnn)) s :=
  if_pos h

theorem exec_ret_of_empty (h : s.stack = []) : exec .ret s = .next s.advance := by
  have htop : s.top = none := by simp [State.top, h]
  simp only [exec, execRet, State.advance_top, htop]

theorem exec_ret_of_append {below : List Word} {w : Word} (h : s.stack = below ++ [w]) :
    exec .ret s = .next (s.advance.pop.setPc w) := by
  have htop : s.top = some w := by simp [State.top, h]
  simp only [exec, execRet, State.advance_top, htop]

end

/-- Settles O17: the pushed address is the advanced pc, and pc and the stack are all a call may write. -/
theorem callPushesTheAdvancedPc : Obligations.CallPushesTheAdvancedPc := by
  intro s nnn hroom
  refine ⟨_, exec_call_of_room nnn hroom, rfl, toNat_immWord nnn, ?_⟩
  exact (untouched_advance _ s (.inl rfl)).trans
    ((untouched_push _ _ _ (.inr rfl)).trans (untouched_setPc _ _ _ (.inl rfl)))

/-- Settles O18: a call on a full stack is the fault entry. -/
theorem callOnAFullStackFaults : Obligations.CallOnAFullStackFaults := by
  intro s nnn hfull
  rw [exec_call_of_full nnn hfull]
  exact raise_spec .stackOverflow _ s

/-- Settles O15: a return pops the last entry into pc, and with none held it is the fetch advance. -/
theorem returnPopsTheStackIntoPc : Obligations.ReturnPopsTheStackIntoPc := by
  refine ⟨fun s below w hs => ?_, fun s hs => ?_⟩
  · refine ⟨_, exec_ret_of_append hs, rfl, by simp [hs], ?_⟩
    exact (untouched_advance _ s (.inl rfl)).trans
      ((untouched_pop _ _ (.inr rfl)).trans (untouched_setPc _ _ w (.inl rfl)))
  · exact ⟨_, exec_ret_of_empty hs, rfl, untouched_advance _ s rfl⟩

/-- Settles O19: what the call pushed is what the return pops, the two rules agreeing on the stack. -/
theorem returnGoesBackBehindTheCall : Obligations.ReturnGoesBackBehindTheCall := by
  intro s u nnn hroom
  obtain ⟨t, ht, pushed, _⟩ := callPushesTheAdvancedPc s nnn hroom
  refine ⟨t, ht, fun kept => ?_⟩
  obtain ⟨w, hw, hpc, hstack, _⟩ := returnPopsTheStackIntoPc.1 u s.stack (s.pc + 2) (kept.trans pushed)
  exact ⟨w, hw, hpc, hstack⟩

end Sys2Proof.Machine
end

section
/-! PROOFS of the family spec/41_register_alu.md. Every instruction here is the fetch advance and then one
or two register writes. What such a state holds is said once for one write (`exec_setV_spec`) and once for
the flag and then the result (`exec_flag_setV_spec`, the order of R131), and the operations that share an
equation share a rule; the rest is what the written bytes are as numbers and bit by bit. RND also uses up
its draw. -/

namespace Sys2Proof.Machine

/-! ## The written bytes as numbers (R13, R130) -/

theorem toNat_carryFlag (sum : Nat) : (carryFlag sum).toNat = if sum > 255 then 1 else 0 := by
  simp [carryFlag]

theorem toNat_noBorrowFlag (a b : Byte) :
    (noBorrowFlag a b).toNat = if a.toNat ≥ b.toNat then 1 else 0 := by
  simp [noBorrowFlag]

theorem toNat_lowBitFlag (a : Byte) : (lowBitFlag a).toNat = a.toNat % 2 := by
  simp [lowBitFlag, Nat.and_one_is_mod]

/-- Bit 7 of a byte is its quotient by 128. -/
theorem toNat_highBitFlag (a : Byte) : (highBitFlag a).toNat = a.toNat / 128 := by
  have := a.isLt
  calc (highBitFlag a).toNat
    _ = (a.toNat &&& 128) >>> 7 := by simp [highBitFlag]
    _ = a.toNat / 128 % 2 := by
      rw [Nat.shiftRight_and_distrib, Nat.shiftRight_eq_div_pow]; exact Nat.and_one_is_mod _
    _ = a.toNat / 128 := by omega

theorem toNat_byte_sub (a b : Byte) : ((a - b).toNat : Int) = (a.toNat - b.toNat : Int) % 256 := by
  have := b.isLt
  rw [BitVec.toNat_sub]
  omega

theorem toNat_byte_ushiftRight_one (a : Byte) : (a >>> 1).toNat = a.toNat / 2 := by
  rw [BitVec.toNat_ushiftRight, Nat.shiftRight_eq_div_pow, Nat.pow_one]

theorem toNat_byte_shiftLeft_one (a : Byte) : (a <<< 1).toNat = a.toNat * 2 % 256 := by
  rw [BitVec.toNat_shiftLeft, Nat.shiftLeft_eq, Nat.pow_one]

/-! ## One register write (R132 to R137) -/

section
variable {i : Instr} {s : State} {x y : Nibble}

/-- An instruction that writes V[X] alone. -/
theorem exec_setV_spec {b : Byte} (he : exec i s = .next (s.advance.setV x b)) :
    ∃ t, exec i s = .next t ∧ t.getV x = b ∧ t.pc = s.pc + 2 ∧
      Untouched (fun p => p = .pc ∨ p = .v x) s t :=
  ⟨_, he, State.getV_setV_same _ x b, rfl,
    (untouched_advance _ s (.inl rfl)).trans (untouched_setV _ _ x b (.inr rfl))⟩

/-- An instruction that writes to V[X] what the operation `f` on bytes makes of V[X] and V[Y], where `f`
is the operation `op` in every bit. -/
theorem exec_bitwise_spec {f : Byte → Byte → Byte} {op : Bool → Bool → Bool}
    (hbit : ∀ a b k, (f a b).getLsbD k = op (a.getLsbD k) (b.getLsbD k))
    (he : exec i s = .next (s.advance.setV x (f (s.getV x) (s.getV y)))) :
    ∃ t, exec i s = .next t ∧
      (∀ k, (t.getV x).getLsbD k = op ((s.getV x).getLsbD k) ((s.getV y).getLsbD k)) ∧
      t.pc = s.pc + 2 ∧ Untouched (fun p => p = .pc ∨ p = .v x) s t := by
  obtain ⟨t, ht, hx, rest⟩ := exec_setV_spec he
  exact ⟨t, ht, fun k => by rw [hx, hbit], rest⟩

/-! ## The flag and then the result (R131) -/

/-- An instruction that writes the flag `f` to VF and then `b` to V[X]: with X = F the flag is lost. -/
theorem exec_flag_setV_spec {f b : Byte} (he : exec i s = .next ((s.advance.setV vf f).setV x b)) :
    ∃ t, exec i s = .next t ∧ t.getV x = b ∧ (x ≠ 0xF → t.getV 0xF = f) ∧ t.pc = s.pc + 2 ∧
      Untouched (fun p => p = .pc ∨ p = .v x ∨ p = .v 0xF) s t := by
  refine ⟨_, he, State.getV_setV_same _ x b, fun hx => ?_, rfl, ?_⟩
  · rw [State.getV_setV_ne _ b hx.symm]
    exact State.getV_setV_same _ vf f
  · exact (untouched_advance _ s (.inl rfl)).trans
      ((untouched_setV _ _ vf f (.inr (.inr rfl))).trans (untouched_setV _ _ x b (.inr (.inl rfl))))

/-- An operand as the result sees it: the new flag if it is VF, else its old value. -/
theorem State.getV_advance_setV_vf (s : State) (f : Byte) (y : Nibble) :
    (s.advance.setV vf f).getV y = if y = 0xF then f else s.getV y :=
  State.getV_setV s.advance vf y f

/-- SUB and SUBN (R139, R141) in one: V[m] minus V[n] goes to V[X], with `u` the state after the flag. -/
theorem exec_difference_spec {m n : Nibble} {u : State}
    (hu : u = s.advance.setV vf (noBorrowFlag (s.getV m) (s.getV n)))
    (he : exec i s = .next (u.setV x (u.getV m - u.getV n))) :
    ∃ (t : State) (f : Nat), exec i s = .next t ∧
      f = (if (s.getV m).toNat ≥ (s.getV n).toNat then 1 else 0) ∧
      ((t.getV x).toNat : Int) =
        ((if m = 0xF then (f : Int) else (s.getV m).toNat) -
          (if n = 0xF then (f : Int) else (s.getV n).toNat)) % 256 ∧
      (x ≠ 0xF → (t.getV 0xF).toNat = f) ∧
      t.pc = s.pc + 2 ∧ Untouched (fun p => p = .pc ∨ p = .v x ∨ p = .v 0xF) s t := by
  subst hu
  obtain ⟨t, ht, hx, hvf, rest⟩ := exec_flag_setV_spec he
  refine ⟨t, _, ht, toNat_noBorrowFlag _ _, ?_, fun h => by rw [hvf h], rest⟩
  rw [hx, toNat_byte_sub, State.getV_advance_setV_vf, State.getV_advance_setV_vf]
  simp only [apply_ite BitVec.toNat, Nat.cast_ite]

/-- SHR and SHL (R140, R142) in one: `flag` of V[X] goes to VF, and `shift` of what V[X] then is to V[X]. -/
theorem exec_shift_spec {flag shift : Byte → Byte} {u : State}
    (hu : u = s.advance.setV vf (flag (s.getV x)))
    (he : exec i s = .next (u.setV x (shift (u.getV x)))) :
    ∃ t, exec i s = .next t ∧
      (x ≠ 0xF → t.getV x = shift (s.getV x) ∧ t.getV 0xF = flag (s.getV x)) ∧
      (x = 0xF → t.getV 0xF = shift (flag (s.getV x))) ∧
      t.pc = s.pc + 2 ∧ Untouched (fun p => p = .pc ∨ p = .v x ∨ p = .v 0xF) s t := by
  subst hu
  obtain ⟨t, ht, hx, hvf, rest⟩ := exec_flag_setV_spec he
  rw [State.getV_advance_setV_vf] at hx
  refine ⟨t, ht, fun h => ⟨by rw [hx, if_neg h], hvf h⟩, fun h => ?_, rest⟩
  rw [if_pos h] at hx
  exact h ▸ hx

end

/-! ## The obligations -/

/-- Settles O25: the sum is taken before the flag is written. -/
theorem addSetsVFToTheCarry : Obligations.AddSetsVFToTheCarry := by
  intro s x y
  obtain ⟨t, ht, hx, hvf, rest⟩ := exec_flag_setV_spec (i := .addReg x y) (s := s) rfl
  refine ⟨t, ht, ?_, fun h => ?_, rest⟩
  · rw [hx]; exact BitVec.toNat_ofNat _ 8
  · rw [hvf h]; exact toNat_carryFlag _

/-- Settles O26: SUB takes V[Y] from V[X], and SUBN V[X] from V[Y]. -/
theorem subtractSetsVFToNoBorrow : Obligations.SubtractSetsVFToNoBorrow :=
  fun _ _ _ => ⟨exec_difference_spec rfl rfl, exec_difference_spec rfl rfl⟩

/-- Settles O27: with X = F it is the flag that is shifted, 0 or 1, so VF ends 0 or twice the flag. -/
theorem shiftsMoveTheBitOutToVF : Obligations.ShiftsMoveTheBitOutToVF := by
  intro s x y
  constructor
  · obtain ⟨t, ht, hne, heq, rest⟩ :=
      exec_shift_spec (i := .shr x y) (s := s) (flag := lowBitFlag) (shift := (· >>> 1)) rfl rfl
    refine ⟨t, ht, fun h => (hne h).imp ?_ ?_, fun h => ?_, rest⟩
    · intro hx; rw [hx, toNat_byte_ushiftRight_one]
    · intro hvf; rw [hvf, toNat_lowBitFlag]
    · rw [heq h, toNat_byte_ushiftRight_one, toNat_lowBitFlag]
      omega
  · obtain ⟨t, ht, hne, heq, rest⟩ :=
      exec_shift_spec (i := .shl x y) (s := s) (flag := highBitFlag) (shift := (· <<< 1)) rfl rfl
    refine ⟨t, ht, fun h => (hne h).imp ?_ ?_, fun h => ?_, rest⟩
    · intro hx; rw [hx, toNat_byte_shiftLeft_one]
    · intro hvf; rw [hvf, toNat_highBitFlag]
    · have := (s.getV x).isLt
      rw [heq h, toNat_byte_shiftLeft_one, toNat_highBitFlag]
      omega

/-- Settles O23: each is one register write, and the sum of bytes wraps at 256. -/
theorem loadsAndImmediateAddWriteOneRegister : Obligations.LoadsAndImmediateAddWriteOneRegister := by
  intro s x y kk
  refine ⟨exec_setV_spec rfl, ?_, exec_setV_spec rfl⟩
  obtain ⟨t, ht, hx, rest⟩ := exec_setV_spec (i := .addImm x kk) (s := s) rfl
  refine ⟨t, ht, ?_, rest⟩
  rw [hx]
  exact BitVec.toNat_add _ _

/-- Settles O24: the operations on bytes are the operations on their bits. -/
theorem bitwiseLogicLeavesVFAlone : Obligations.BitwiseLogicLeavesVFAlone :=
  fun _ _ _ => ⟨exec_bitwise_spec (fun _ _ _ => BitVec.getLsbD_or) rfl,
    exec_bitwise_spec (fun _ _ _ => BitVec.getLsbD_and) rfl,
    exec_bitwise_spec (fun _ _ _ => BitVec.getLsbD_xor) rfl⟩

/-- Settles O28: the draw at the old counter is masked, and the counter moves on. -/
theorem randomByteIsMaskedByItsImmediate : Obligations.RandomByteIsMaskedByItsImmediate := by
  intro s x kk
  refine ⟨_, _, rfl, rfl, rfl, fun b => ?_, fun hk => ?_, rfl, ?_⟩
  · rw [State.getV_setV_same]
    exact BitVec.getLsbD_and
  · rw [State.getV_setV_same, hk]
    exact BitVec.and_zero
  · exact (untouched_advance _ s (.inl rfl)).trans
      ((untouched_nextDraw _ _ (.inr (.inr rfl))).trans (untouched_setV _ _ x _ (.inr (.inl rfl))))

end Sys2Proof.Machine
end

section
/-! PROOFS of the family spec/42_index_memory.md. The loads of I share one shape, the fetch advance and then
a new I. FX33, FX55 and FX65 are settled on both sides of their bound from what `exec_cases` says of every
instruction: with the fault of R241 due they are the fault entry, and without it they write what their rule
names and nothing else. Loading back what FX55 stored then needs only the two rules. -/

namespace Sys2Proof.Machine

/-! ## The fetch advance and then a new I (R160 to R162) -/

/-- An instruction that writes I alone, its new value given as a number. -/
theorem exec_setI_spec {i : Instr} {s : State} {w : Word} {n : Nat} (hw : w.toNat = n)
    (he : exec i s = .next (s.advance.setI w)) :
    ∃ t, exec i s = .next t ∧ t.i.toNat = n ∧ t.pc = s.pc + 2 ∧
      Untouched (fun p => p = .pc ∨ p = .i) s t :=
  ⟨_, he, hw, rfl, (untouched_advance _ s (.inl rfl)).trans (untouched_setI _ _ w (.inr rfl))⟩

/-- Settles O29: the address and the glyph's address are the numbers their rules name. -/
theorem indexLoadsSetIToTheAddress : Obligations.IndexLoadsSetIToTheAddress :=
  fun s x nnn => ⟨exec_setI_spec (toNat_immWord nnn) rfl,
    exec_setI_spec (s.toNat_glyphAddress (s.getV x)) rfl⟩

/-- Settles O30: the 16-bit sum of I and V[X] wraps at 2^16. -/
theorem indexAddIsModulo65536WithNoFlag : Obligations.IndexAddIsModulo65536WithNoFlag :=
  fun s x => exec_setI_spec (by rw [BitVec.toNat_add, State.toNat_wideV]; rfl) rfl

/-! ## A block of memory inside its bound and past it (R54, R163 to R165) -/

section
variable {s t : State} {x : Nibble}

/-- An instruction with a fault due ends in the state that fault entry leaves (R241, R242). -/
theorem exec_faultedFrom_of_due {i : Instr} {c : FaultCause} (hd : dueFault s i = c) (hc : c ≠ .none) :
    ∃ t, exec i s = .next t ∧ FaultedFrom s c (encode i) t := by
  rcases exec_cases i s with ⟨hnone, _⟩ | ⟨_, hraise⟩
  · exact absurd (hd.symm.trans hnone) hc
  · rw [hraise, hd]
    exact raise_spec c _ s

theorem exec_ldVxMem_of_fits (hfit : s.i.toNat + x.toNat ≤ 0xFFF) :
    exec (.ldVxMem x) s = .next (s.advance.loadRegs s.i.toNat x.toNat) :=
  if_pos ((blockInBounds_iff _ _).2 (.inr (by omega)))

theorem getV_of_exec_ldVxMem (hfit : s.i.toNat + x.toNat ≤ 0xFFF)
    (h : exec (.ldVxMem x) s = .next t) {y : Nibble} (hy : y.toNat ≤ x.toNat) :
    t.getV y = s.readByte (s.i.toNat + y.toNat) := by
  cases (exec_ldVxMem_of_fits hfit).symm.trans h
  rw [State.getV_loadRegs _ _ y x.isLt, if_pos hy, State.advance_readByte]

end

/-- Settles O31: within the bound the three digits are read back, and past it the fault is due. -/
theorem decimalDigitsAreStoredAtI : Obligations.DecimalDigitsAreStoredAtI := by
  refine fun s x => ⟨fun hfit => ?_, fun hpast => exec_faultedFrom_of_due (if_pos hpast) (by decide)⟩
  have hsafe : dueFault s (.ldBVx x) = .none := if_neg (Nat.not_lt.2 hfit)
  have he := exec_ldBVx_of_fits (x := x) hfit
  have digit {k : Nat} (hk : k < 3) := congrArg BitVec.toNat (readByte_of_exec_ldBVx hfit he hk)
  exact ⟨_, he, digit (k := 0) (by decide), digit (k := 1) (by decide), digit (k := 2) (by decide),
    State.storeBytes_pc .., untouched_mayWrite_exec hsafe he⟩

/-- Settles O32: within the bound each stored register is read back, and past it the fault is due. -/
theorem registersAreStoredFromI : Obligations.RegistersAreStoredFromI := by
  refine fun s x => ⟨fun hfit => ?_, fun hpast => exec_faultedFrom_of_due (if_pos hpast) (by decide)⟩
  have hsafe : dueFault s (.ldMemVx x) = .none := if_neg (Nat.not_lt.2 hfit)
  have he := exec_ldMemVx_of_fits hfit
  exact ⟨_, he, fun y hy => readByte_of_exec_ldMemVx hfit he hy, State.storeBytes_pc ..,
    untouched_mayWrite_exec hsafe he⟩

/-- Settles O33: within the bound each register holds its byte, and past it the fault is due. -/
theorem registersAreLoadedFromI : Obligations.RegistersAreLoadedFromI := by
  refine fun s x => ⟨fun hfit => ?_, fun hpast => exec_faultedFrom_of_due (if_pos hpast) (by decide)⟩
  have hsafe : dueFault s (.ldVxMem x) = .none := if_neg (Nat.not_lt.2 hfit)
  have he := exec_ldVxMem_of_fits hfit
  exact ⟨_, he, fun y hy => getV_of_exec_ldVxMem hfit he hy, State.loadRegs_pc ..,
    untouched_mayWrite_exec hsafe he⟩

/-- Settles O34: the store leaves I, so the load reads the addresses that the store wrote. -/
theorem loadBackRestoresTheStoredRegisters : Obligations.LoadBackRestoresTheStoredRegisters := by
  intro s t u x hfit hstore hi hmem
  obtain ⟨_, hstore', hstored, _, frame⟩ := (registersAreStoredFromI s x).1 hfit
  cases hstore'.symm.trans hstore
  have hui : u.i = s.i := hi.trans (frame.i (by simp))
  obtain ⟨w, hload, hloaded, _⟩ := (registersAreLoadedFromI u x).1 (by rwa [hui])
  refine ⟨w, hload, fun y hy => ?_⟩
  calc w.getV y
    _ = u.readByte (u.i.toNat + y.toNat) := hloaded y hy
    _ = t.readByte (s.i.toNat + y.toNat) := by rw [hui, hmem]
    _ = s.getV y := hstored y hy

end Sys2Proof.Machine
end

section
/-! PROOFS of the family spec/43_display.md. The places a draw toggles (`spritePlaces`) are the pixels that
the sprite covers (`spriteCovers`), each taken once, so what the toggling of distinct places does
(`drawPlaces_spec`) is what DXYN does within its bound. That two draws cancel then follows from the rule of
one draw alone: the state between them covers the same pixels. -/

namespace Sys2Proof.Machine

section
variable {s u : State} {x y n : Nibble}

/-! ## The pixels of a sprite (R191) -/

/-- The places that `DRW Vx, Vy, n` toggles, with coordinates, I and sprite bytes of before (D10). -/
def State.drawnPlaces (s : State) (x y n : Nibble) : List (Fin 64 × Fin 32) :=
  spritePlaces (s.getV x).toNat (s.getV y).toNat (s.loadBytes s.i.toNat n.toNat)

@[simp] theorem State.length_loadBytes (s : State) (a count : Nat) :
    (s.loadBytes a count).length = count := by
  simp [State.loadBytes]

@[simp] theorem State.getElem_loadBytes (s : State) (a count k : Nat)
    (h : k < (s.loadBytes a count).length) : (s.loadBytes a count)[k] = s.readByte (a + k) := by
  simp [State.loadBytes]

theorem mk_eq_wrap_iff (px : Fin 64) (py : Fin 32) (a b : Nat) :
    (px, py) = (wrapColumn a, wrapRow b) ↔ px.val = a % 64 ∧ py.val = b % 32 := by
  rw [Prod.mk.injEq, Fin.ext_iff, Fin.ext_iff]
  rfl

theorem mem_drawnPlaces (px : Fin 64) (py : Fin 32) :
    (px, py) ∈ s.drawnPlaces x y n ↔ spriteCovers s x y n px py := by
  simp only [State.drawnPlaces, mem_spritePlaces, State.length_loadBytes, State.getElem_loadBytes,
    mk_eq_wrap_iff, exists_prop]
  rfl

theorem nodup_drawnPlaces : (s.drawnPlaces x y n).Nodup := by
  refine nodup_spritePlaces _ _ _ ?_
  have := n.isLt
  rw [State.length_loadBytes]
  omega

/-- The pixels covered depend on I, on the two coordinates and on the sprite's bytes. -/
theorem spriteCovers_congr (hi : u.i = s.i) (hx : u.getV x = s.getV x) (hy : u.getV y = s.getV y)
    (hb : ∀ k, k < n.toNat → u.readByte (s.i.toNat + k) = s.readByte (s.i.toNat + k))
    (px : Fin 64) (py : Fin 32) : spriteCovers u x y n px py ↔ spriteCovers s x y n px py := by
  unfold spriteCovers
  rw [hi, hx, hy]
  refine exists_congr fun row => exists_congr fun col => and_congr_right fun hrow => ?_
  rw [hb row hrow]

/-! ## A draw within its bound (R191, R192) -/

theorem collisionFlag_eq_one_iff (hit : Bool) : collisionFlag hit = 1 ↔ hit = true := by
  cases hit <;> decide

theorem collisionFlag_eq_zero_or_one (hit : Bool) : collisionFlag hit = 0 ∨ collisionFlag hit = 1 := by
  cases hit <;> decide

/-- The framebuffer after `DRW Vx, Vy, n`, and whether a pixel went off (`exec_drw_spec`). -/
def State.drawn (s : State) (x y n : Nibble) : Canvas :=
  drawPlaces ⟨s.fb, false⟩ (s.drawnPlaces x y n)

/-- A draw within its bound ends with the framebuffer and the flag of `State.drawn`. -/
theorem exec_drw_spec (hfit : n = 0 ∨ s.i.toNat + n.toNat - 1 ≤ 0xFFF) :
    ∃ t, exec (.drw x y n) s = .next t ∧ t.fb = (s.drawn x y n).fb ∧
      t.getV 0xF = collisionFlag (s.drawn x y n).hit ∧ t.pc = s.pc + 2 ∧
      Untouched (fun p => p = .pc ∨ p = .fb ∨ p = .v 0xF) s t := by
  have hin : blockInBounds s.i n.toNat = true :=
    (blockInBounds_iff _ _).2 (hfit.imp_left (congrArg BitVec.toNat))
  rw [State.drawn, State.drawnPlaces, ← drawSprite_eq_places]
  exact ⟨_, if_pos hin, rfl, State.getV_setV_same _ vf _, rfl, (untouched_advance _ s (.inl rfl)).trans
    ((untouched_setFb _ _ _ (.inr (.inl rfl))).trans (untouched_setV _ _ vf _ (.inr (.inr rfl))))⟩

/-- A pixel changes exactly at a place that is toggled. -/
theorem pixel_drawn_ne_iff (px : Fin 64) (py : Fin 32) :
    (s.drawn x y n).fb.pixel px py ≠ s.fb.pixel px py ↔ spriteCovers s x y n px py := by
  rw [State.drawn, (drawPlaces_spec _ nodup_drawnPlaces _).1, ← mem_drawnPlaces]
  by_cases h : (px, py) ∈ s.drawnPlaces x y n <;> simp [h]

/-- A draw collides exactly when a covered pixel was on. -/
theorem hit_drawn_iff :
    (s.drawn x y n).hit = true ↔
      ∃ px py, spriteCovers s x y n px py ∧ s.fb.pixel px py = true := by
  rw [State.drawn, (drawPlaces_spec _ nodup_drawnPlaces _).2]
  simp only [Bool.false_or, List.any_eq_true, Prod.exists, mem_drawnPlaces]

end

/-! ## A pixel before, between and after two draws -/

/-- Toggled by both draws or by neither, a pixel ends as it began. -/
theorem bool_eq_of_toggled_alike {before between after : Bool}
    (h : after ≠ between ↔ between ≠ before) : after = before := by
  revert h
  cases before <;> cases between <;> cases after <;> decide

/-- A pixel that the first draw toggled and left on is one that was off. -/
theorem bool_ne_and_on_iff (before between : Bool) :
    between ≠ before ∧ between = true ↔ before = false ∧ between = true := by
  cases before <;> cases between <;> decide

/-! ## The obligations -/

/-- Settles O35: CLS is the fetch advance and then a clear framebuffer. -/
theorem clearTurnsEveryPixelOff : Obligations.ClearTurnsEveryPixelOff :=
  fun s => ⟨_, rfl, Framebuffer.pixel_clear, rfl,
    (untouched_advance _ s (.inl rfl)).trans (untouched_setFb _ _ _ (.inr rfl))⟩

/-- Settles O36: the places toggled are the covered pixels, and VF is the flag of their collision. -/
theorem drawTogglesExactlyTheCoveredPixels : Obligations.DrawTogglesExactlyTheCoveredPixels := by
  intro s x y n hfit
  obtain ⟨t, ht, hfb, hvf, rest⟩ := exec_drw_spec (x := x) (y := y) hfit
  refine ⟨t, ht, ?_, ?_, ?_, rest⟩
  · rw [hfb]; exact pixel_drawn_ne_iff
  · rw [hvf, collisionFlag_eq_one_iff, hit_drawn_iff]
  · rw [hvf]; exact collisionFlag_eq_zero_or_one _

/-- Settles O37: past memory a fault is due, and a draw with a fault due is the fault entry. -/
theorem drawPastMemoryFaults : Obligations.DrawPastMemoryFaults := by
  intro s x y n hn hpast
  have hpos : n.toNat > 0 := Nat.pos_of_ne_zero fun h => hn (BitVec.eq_of_toNat_eq h)
  exact exec_faultedFrom_of_due (if_pos ⟨hpos, hpast⟩) (by decide)

/-- Settles O38: both draws toggle the same pixels, so a pixel toggled by both is as it was, and the second
finds on what the first turned on. -/
theorem drawingTwiceRestoresTheFramebuffer : Obligations.DrawingTwiceRestoresTheFramebuffer := by
  intro s t u x y n _ _ hfit hdraw hfb hi hx hy hb
  obtain ⟨_, hdraw', htoggled, _⟩ := drawTogglesExactlyTheCoveredPixels s x y n hfit
  cases hdraw'.symm.trans hdraw
  obtain ⟨w, hagain, hback, hflag, _⟩ := drawTogglesExactlyTheCoveredPixels u x y n (by rwa [hi])
  have hcovers (px py) : spriteCovers u x y n px py ↔ t.fb.pixel px py ≠ s.fb.pixel px py :=
    (spriteCovers_congr hi hx hy hb px py).trans (htoggled px py).symm
  simp only [hcovers, hfb] at hback hflag
  refine ⟨w, hagain, Framebuffer.ext_pixel fun px py => ?_, hflag.trans ?_⟩
  · exact bool_eq_of_toggled_alike (hback px py)
  · exact exists_congr fun px => exists_congr fun py => bool_ne_and_on_iff _ _

end Sys2Proof.Machine
end

section
/-! PROOFS of the family spec/44_timers_keypad.md. A key number is pressed exactly when it names one of the
16 keys and that key is down, so the skips test what R210 says and the search of the key wait ends at the
lowest pressed key. The timer instructions are the fetch advance and then one write. That the keypad is
constant through a tick is the frame of one cycle, carried over any number of cycles. -/

namespace Sys2Proof.Machine

variable {s : State} {x : Nibble}

/-! ## The pressed keys (R210) -/

/-- R210: only a number below 16 names a key. -/
theorem State.keyDown_iff {n : Nat} : s.keyDown n = true ↔ ∃ h : n < 16, s.key[n] = true := by
  by_cases hn : n < 16 <;> simp [State.keyDown, hn]

theorem State.keyDown_eq_false_iff {n : Nat} :
    s.keyDown n = false ↔ ∀ h : n < 16, s.key[n] = false := by
  simp only [Bool.eq_false_iff, Ne, State.keyDown_iff, not_exists]

theorem State.lowestKey_eq_some_iff {k : Nat} :
    s.lowestKey = some k ↔ s.keyDown k = true ∧ k < 16 ∧ ∀ j < k, s.keyDown j = false := by
  simp only [State.lowestKey, List.find?_range_eq_some, List.mem_range, Bool.not_eq_true']

theorem State.lowestKey_eq_none_iff : s.lowestKey = none ↔ ∀ k < 16, s.keyDown k = false := by
  simp only [State.lowestKey, List.find?_range_eq_none, Bool.not_eq_true']

/-! ## The key wait (R215) -/

theorem exec_ldVxK_of_key {k : Nat} (h : s.lowestKey = some k) :
    exec (.ldVxK x) s = .next (s.advance.setV x (BitVec.ofNat 8 k)) := by
  simp only [exec, execLdVxK, State.advance_lowestKey, h]

/-- With no key pressed, the way back undoes the fetch advance: the state is the old one. -/
theorem exec_ldVxK_of_no_key (h : s.lowestKey = none) : exec (.ldVxK x) s = .next s := by
  have hback : s.advance.setPc (s.advance.pc - 2) = s := by
    rw [State.advance_pc, BitVec.add_sub_cancel]; rfl
  simp only [exec, execLdVxK, State.advance_lowestKey, h, hback]

/-- Settles O40: the search ends at the lowest pressed key, which fits in a byte, or finds none. -/
theorem keyWaitTakesTheLowestKeyOrRepeats : Obligations.KeyWaitTakesTheLowestKeyOrRepeats := by
  refine fun s x => ⟨fun k hk hdown hlow => ?_, fun hup => ?_⟩
  · have hbelow (j : Nat) (hj : j < k) : s.keyDown j = false :=
      State.keyDown_eq_false_iff.2 fun hj16 => Bool.eq_false_iff.2 fun hjdown =>
        Nat.not_lt.2 (hlow j hj16 hjdown) hj
    have hkey : s.lowestKey = some k :=
      State.lowestKey_eq_some_iff.2 ⟨State.keyDown_iff.2 ⟨hk, hdown⟩, hk, hbelow⟩
    obtain ⟨t, ht, hx, rest⟩ := exec_setV_spec (exec_ldVxK_of_key (x := x) hkey)
    refine ⟨t, ht, ?_, rest⟩
    rw [hx, BitVec.toNat_ofNat, Nat.mod_eq_of_lt (by omega)]
  · have hnone : s.lowestKey = none :=
      State.lowestKey_eq_none_iff.2 fun k _ => State.keyDown_eq_false_iff.2 (hup k)
    exact ⟨s, exec_ldVxK_of_no_key hnone, Untouched.refl _ s⟩

/-! ## The key skips (R211, R212) -/

/-- Settles O39: both are skips, on the key that V[X] names and on its negation. -/
theorem keySkipsReadTheNamedKey : Obligations.KeySkipsReadTheNamedKey := by
  refine fun s x => ⟨exec_skip_spec State.keyDown_iff rfl, ?_⟩
  have hup : (!s.keyDown (s.getV x).toNat) = true ↔
      ¬ ∃ h : (s.getV x).toNat < 16, s.key[(s.getV x).toNat] = true := by
    rw [Bool.not_eq_true', Bool.eq_false_iff, Ne, State.keyDown_iff]
  obtain ⟨t, ht, hpc, rest⟩ := exec_skip_spec (i := .sknp x) hup rfl
  exact ⟨t, ht, hpc.trans (ite_not ..), rest⟩

/-! ## The timer instructions (R214, R216, R217) -/

/-- Settles O41: each is the advance and then one write, of V[X] or of DT. -/
theorem delayTimerIsReadAndSet : Obligations.DelayTimerIsReadAndSet :=
  fun s _ => ⟨exec_setV_spec rfl, _, rfl, rfl, rfl,
    (untouched_advance _ s (.inl rfl)).trans (untouched_setDt _ _ _ (.inr rfl))⟩

theorem reply_isSoundActive_iff : HostTx.isSoundActive.reply s = .flag true ↔ s.st.toNat > 0 := by
  simp only [HostTx.reply, State.isSoundActive, Reply.flag.injEq, decide_eq_true_eq]

/-- Settles O42: the advance and then the write of ST, whose value is V[X]. -/
theorem soundTimerIsSetAndHeard : Obligations.SoundTimerIsSetAndHeard :=
  fun s _ => ⟨_, rfl, rfl, reply_isSoundActive_iff, rfl,
    (untouched_advance _ s (.inl rfl)).trans (untouched_setSt _ _ _ (.inr rfl))⟩

/-! ## The keypad through a tick (R213) -/

theorem cycles_succ_of_cycle {t : State} (n : Nat) (h : cycle s = .next t) :
    cycles (n + 1) s = cycles n t := by
  simp only [cycles, h]

/-- A property that every cycle keeps is kept by any number of them. -/
theorem cycles_keeps {P : State → Prop} (hc : ∀ s t, P s → cycle s = .next t → P t) (n : Nat)
    {s t : State} (hs : P s) (h : cycles n s = .next t) : P t := by
  induction n generalizing s with
  | zero => cases h; exact hs
  | succ n ih =>
    obtain ⟨u, hu⟩ := cycle_answers s
    rw [cycles_succ_of_cycle n hu] at h
    exact ih (hc s u hs hu) h

theorem untouched_hostOnly_cycles {n : Nat} {t : State} (h : cycles n s = .next t) :
    Untouched (fun p => ¬ hostOnly p) s t :=
  cycles_keeps (P := Untouched (fun p => ¬ hostOnly p) s)
    (fun _ _ hs hc => hs.trans (untouched_hostOnly_cycle hc)) n (Untouched.refl _ s) h

/-- Settles O45: no cycle and no tick changes a piece that is the host's alone. -/
theorem keypadIsConstantThroughATick : Obligations.KeypadIsConstantThroughATick := by
  intro n m s t u ht _ hu
  have tick := untouched_hostOnly_tickOf ht
  have part := untouched_hostOnly_cycles hu
  exact ⟨tick.key (by simp [hostOnly]), part.key (by simp [hostOnly]),
    tick.fontBase (by simp [hostOnly]), tick.inbox (by simp [hostOnly]),
    tick.standing (by simp [hostOnly])⟩

end Sys2Proof.Machine
end

section
/-! PROOFS of the family spec/60_exceptions.md. What a transaction may write is listed once
(`HostTx.mayWrite`) and read off the model (`HostTx.perform_frame`), so the frames of the loads, the
key, `start` and the timer step follow from it. A cycle keeps the run state or is the one fault entry
(`cycle_run_or_fault`), whose recorded word is the fetched one because no instruction that can fault has
ignored bits. A tick is followed by induction on its cycles. -/

namespace Sys2Proof

/-! ## The word an instruction that can fault was decoded from (R81, R241) -/

section
variable {op : Word}

theorem wordNNN_of_matches {f : Nibble} (h : Row.matches ⟨0xF000, wordXYN f 0 0 0⟩ op = true) :
    wordNNN f (opNNN op) = op := by
  rw [← (matches_F000_iff op f).1 h, wordNNN_fields]

theorem wordXYN_of_matches {f : Nibble} (h : Row.matches ⟨0xF000, wordXYN f 0 0 0⟩ op = true) :
    wordXYN f (opX op) (opY op) (opN op) = op := by
  rw [← (matches_F000_iff op f).1 h, wordXYN_fields]

theorem wordXKK_of_matches {f : Nibble} {kk : Byte}
    (h : Row.matches ⟨0xF0FF, wordXKK f 0 kk⟩ op = true) : wordXKK f (opX op) kk = op := by
  obtain ⟨hf, hk⟩ := (matches_F0FF_iff op f kk).1 h
  rw [← hf, ← hk, wordXKK_fields]

/-- A word that is the canonical word of some instruction is that of the one it decodes to. -/
theorem encode_of_decodeWord {i : Instr} (j : Instr) (hj : encode j = op)
    (h : decodeWord op = .instr i) : encode i = op := by
  rw [← hj, decodeOfEncodeIsTheInstruction j] at h
  cases h
  exact hj

end

end Sys2Proof

namespace Sys2Proof.Machine

/-! ## Faults (R241 to R243) -/

section
variable {s t : State}

/-- No instruction that can fault has ignored bits, so its canonical word is the one it was decoded
from. -/
theorem encode_of_due {op : Word} {i : Instr} (hdue : dueFault s i ≠ .none)
    (h : decodeWord op = .instr i) : encode i = op := by
  have hrow := matches_of_decodeWord h
  cases i with
  | call nnn => exact encode_of_decodeWord (.call (opNNN op)) (wordNNN_of_matches (f := 0x2) hrow) h
  | drw x y n =>
    exact encode_of_decodeWord (.drw (opX op) (opY op) (opN op)) (wordXYN_of_matches (f := 0xD) hrow) h
  | ldBVx x =>
    exact encode_of_decodeWord (.ldBVx (opX op)) (wordXKK_of_matches (f := 0xF) (kk := 0x33) hrow) h
  | ldMemVx x =>
    exact encode_of_decodeWord (.ldMemVx (opX op)) (wordXKK_of_matches (f := 0xF) (kk := 0x55) hrow) h
  | ldVxMem x =>
    exact encode_of_decodeWord (.ldVxMem (opX op)) (wordXKK_of_matches (f := 0xF) (kk := 0x65) hrow) h
  | _ => exact absurd rfl hdue

theorem exec_keeps_run_and_record {i : Instr} (hd : dueFault s i = .none) (h : exec i s = .next t) :
    t.run = s.run ∧ t.faultCause = s.faultCause ∧ t.faultPc = s.faultPc ∧
      t.faultOpcode = s.faultOpcode := by
  have frame : Untouched (¬ fixedByExec ·) s t :=
    (untouched_mayWrite_exec hd h).mono fun _ => not_fixedByExec_of_mayWrite
  exact ⟨frame.run (by simp [fixedByExec]), frame.faultRecord (by simp [fixedByExec])⟩

/-- A cycle keeps the run state, or it is the fault entry: from Running, with the fetched word on record
unless the fetch itself was out of bounds. -/
theorem cycle_run_or_fault (h : cycle s = .next t) :
    t.run = s.run ∨ (s.run = .running ∧ ∃ c, c ≠ .none ∧
      (c = .fetchOutOfBounds ↔ s.pc.toNat > 0xFFE) ∧
      t = s.takeFault c (if c = .fetchOutOfBounds then 0 else s.fetchWord)) := by
  rcases cycle_cases s with ⟨_, hc⟩ | ⟨hr, hpast, hc⟩ | ⟨hr, hpc, i, hd, hc⟩ | ⟨_, _, _, _, hc⟩ <;>
    rw [hc] at h
  case inl => cases h; exact .inl rfl
  case inr.inl => cases h; exact .inr ⟨hr, _, by decide, ⟨fun _ => hpast, fun _ => rfl⟩, rfl⟩
  case inr.inr.inl =>
    rcases exec_cases i s with ⟨hnone, _⟩ | ⟨hdue, hraise⟩
    · exact .inl (exec_keeps_run_and_record hnone h).1
    · cases hraise.symm.trans h
      have hfetched : dueFault s i ≠ .fetchOutOfBounds := dueFault_ne_fetchOutOfBounds s i
      refine .inr ⟨hr, _, hdue, ⟨fun hf => absurd hf hfetched, fun hpast => by omega⟩, ?_⟩
      rw [if_neg hfetched, encode_of_due hdue hd]
  case inr.inr.inr => cases h; exact .inl rfl

end

/-- Settles O47, by the two ways an instruction can end. -/
theorem instructionsFaultExactlyWhenDue : Obligations.InstructionsFaultExactlyWhenDue := by
  intro i s
  by_cases hd : dueFault s i = .none
  · obtain ⟨t, ht⟩ := exec_answers i s
    exact ⟨t, ht, fun hdue => absurd hd hdue, fun _ => exec_keeps_run_and_record hd ht⟩
  · obtain ⟨t, ht, faulted⟩ := exec_faultedFrom_of_due rfl hd
    exact ⟨t, ht, fun _ => faulted, fun hnone => absurd hnone hd⟩

/-- Settles O46: a cycle that ends Faulted did not keep Running, so it is the fault entry. -/
theorem faultsArePreciseAndWriteOnlyTheRecord : Obligations.FaultsArePreciseAndWriteOnlyTheRecord := by
  intro s t hr hcycle hfaulted
  rcases cycle_run_or_fault hcycle with hkept | ⟨_, c, hc, hfetch, rfl⟩
  · exact nomatch hr.symm.trans (hkept.symm.trans hfaulted)
  · exact ⟨hc, rfl, rfl, hfetch, untouched_takeFault _ s c _ (.inl rfl) (.inr rfl)⟩

/-! ## The timers and the tick (R262, R270) -/

/-- Settles O43, by induction on the number of timer steps: each one counts both timers down. -/
theorem timerStepsCountDownToZero : Obligations.TimerStepsCountDownToZero := by
  intro n s
  induction n with
  | zero => exact ⟨rfl, rfl, Untouched.refl _ s⟩
  | succ n ih =>
    obtain ⟨hdt, hst, frame⟩ := ih
    rw [Function.iterate_succ_apply']
    refine ⟨?_, ?_, frame.trans (untouched_timerStep _ _ (.inl rfl) (.inr rfl))⟩
    · rw [State.timerStep_dt, toNat_countDown, hdt, Nat.sub_sub]
    · rw [State.timerStep_st, toNat_countDown, hst, Nat.sub_sub]

section
variable {s t : State}

theorem cycles_of_not_running (n : Nat) (h : s.run ≠ .running) : cycles n s = .next s := by
  induction n with
  | zero => rfl
  | succ n ih => rw [cycles_succ_of_cycle n (cycle_of_not_running h), ih]

theorem runFrame_succ_of_cycle (n : Nat) (h : cycle s = .next t) :
    runFrame (n + 1) s = if t.run = .running then runFrame n t else .next t := by
  simp only [runFrame, h]

/-- The frame of a tick from what its cycles lead to, which is where they stop when one faults. -/
theorem runFrame_of_cycles {n : Nat} (hr : s.run = .running) (h : cycles n s = .next t) :
    runFrame n s = .next (if t.run = .running then t.timerStep else t) := by
  induction n generalizing s with
  | zero => cases h; rw [if_pos hr]; rfl
  | succ n ih =>
    obtain ⟨u, hu⟩ := cycle_answers s
    rw [cycles_succ_of_cycle n hu] at h
    rw [runFrame_succ_of_cycle n hu]
    by_cases hur : u.run = .running
    · rw [if_pos hur, ih hur h]
    · cases (cycles_of_not_running n hur).symm.trans h
      rw [if_neg hur, if_neg hur]

end

/-- Settles O44: a tick from Running is its frame, and each transaction is the function it names. -/
theorem tickIsItsCyclesThenOneTimerStep : Obligations.TickIsItsCyclesThenOneTimerStep :=
  ⟨fun n _ _ hr h => (tickOf_of_running n hr).trans (runFrame_of_cycles hr h), fun _ _ => rfl,
    fun _ => ⟨rfl, rfl⟩⟩

/-- Settles O10, by the check of the run state that a cycle and a tick begin with. -/
theorem nothingExecutesUnlessRunning : Obligations.NothingExecutesUnlessRunning :=
  fun _ hr => ⟨cycle_of_not_running hr, fun _ => tickOf_of_not_running _ hr⟩

/-! ## What a transaction may write (R270 to R282) -/

/-- The pieces of the state a transaction may write, by its rule (tied to the model by
`HostTx.perform_frame`). -/
def HostTx.mayWrite : HostTx → Piece → Prop
  | .loadFont offset, p => p = .fontBase ∨ ∃ k, k < 80 ∧ p = .mem (offset + k)
  | .loadRom bytes, p => ∃ k, k < bytes.length ∧ p = .mem (0x200 + k)
  | .setKeyState _ _, p => p = .key
  | .start, p => p = .run
  | .timerStep, p => p = .dt ∨ p = .st
  | .reset, p => p ≠ .draws ∧ notIssued p
  | .tick _, p | .cycle, p => ¬ hostOnly p
  | .readFramebuffer, _ | .isSoundActive, _ | .isRunning, _ | .readStatus, _ => False

section
variable {s t : State}

theorem untouched_start (c : Piece → Prop) (s : State) (h : c .run) : Untouched c s s.start := by
  rcases s.start_cases with ⟨_, hs⟩ | ⟨_, hs⟩ <;> rw [hs]
  · exact untouched_setRun c s .running h
  · exact Untouched.refl c s

/-- Two states that share the model's own fields differ in the machine's pieces alone. -/
theorem untouched_of_own_fields (hd : t.draws = s.draws) (hi : t.inbox = s.inbox)
    (hs : t.standing = s.standing) : Untouched (fun p => p ≠ .draws ∧ notIssued p) s t := by
  constructor <;> intros <;> simp_all [notIssued]

/-- A transaction writes only the pieces its rule names. -/
theorem HostTx.perform_frame {tx : HostTx} (h : tx.perform s = .next t) :
    Untouched tx.mayWrite s t := by
  cases tx with
  | loadFont offset =>
    cases h; exact untouched_loadFont _ s offset (.inl rfl) fun k hk => .inr ⟨k, hk, rfl⟩
  | loadRom bytes => cases h; exact untouched_loadRom _ s bytes fun k hk => ⟨k, hk, rfl⟩
  | setKeyState keyId pressed => cases h; exact untouched_setKey _ s keyId pressed rfl
  | start => cases h; exact untouched_start _ s rfl
  | timerStep => cases h; exact untouched_timerStep _ s (.inl rfl) (.inr rfl)
  | reset => cases h; exact untouched_of_own_fields rfl rfl rfl
  | tick _ => exact untouched_hostOnly_tickOf h
  | cycle => exact untouched_hostOnly_cycle h
  | readFramebuffer | isSoundActive | isRunning | readStatus => cases h; exact Untouched.refl _ s

end

/-- Settles O58: of the pieces the remaining transactions may write, each is one of those listed. -/
theorem onlyTicksAndCyclesMakeProgress : Obligations.OnlyTicksAndCyclesMakeProgress := by
  intro s t hstep hcycle htick hreset
  rcases step_cases s with ⟨_, hs⟩ | ⟨tx, hp, hs⟩ <;> rw [hs] at hstep
  · cases hstep; exact Untouched.refl _ s
  · refine (untouched_takeIssued _ s (.inl rfl)).trans
      ((HostTx.perform_frame hstep).mono fun p hw => ?_)
    rw [hp] at hcycle htick hreset ⊢
    cases tx with
    | cycle => exact absurd rfl hcycle
    | tick delta => exact absurd rfl (htick delta)
    | reset => exact absurd rfl hreset
    | loadFont offset =>
      obtain hfont | ⟨k, _, hmem⟩ := hw
      · exact .inr (.inr (.inr (.inl hfont)))
      · exact .inr (.inr (.inr (.inr (.inl ⟨_, hmem⟩))))
    | loadRom bytes =>
      obtain ⟨k, _, hmem⟩ := hw
      exact .inr (.inr (.inr (.inr (.inl ⟨_, hmem⟩))))
    | setKeyState _ _ => exact .inr (.inl hw)
    | start => exact .inr (.inr (.inl hw))
    | timerStep => exact .inr (.inr (.inr (.inr (.inr ⟨rfl, hw⟩))))
    | readFramebuffer | isSoundActive | isRunning | readStatus => exact hw.elim

/-! ## The run state (R255) -/

/-- The run state is kept, or it went from Running to Faulted with a cause on record. -/
def KeptOrFaulted (s t : State) : Prop :=
  t.run = s.run ∨ (s.run = .running ∧ t.run = .faulted ∧ t.faultCause ≠ .none)

section
variable {s t : State}

/-- One more cycle: from the same run state it keeps it or faults, and in Faulted it does nothing. -/
theorem KeptOrFaulted.cycle {u : State} (h : KeptOrFaulted s t) (hc : cycle t = .next u) :
    KeptOrFaulted s u := by
  rcases h with hkept | ⟨hr, hfaulted, hcause⟩
  · rcases cycle_run_or_fault hc with hkept' | ⟨hr, c, hcause, _, rfl⟩
    · exact .inl (hkept'.trans hkept)
    · exact .inr ⟨hkept.symm.trans hr, rfl, hcause⟩
  · cases (cycle_of_not_running (by simp [hfaulted])).symm.trans hc
    exact .inr ⟨hr, hfaulted, hcause⟩

theorem keptOrFaulted_tickOf {n : Nat} (h : tickOf n s = .next t) : KeptOrFaulted s t :=
  tickOf_keeps (P := KeptOrFaulted s) (fun _ _ hs hc => hs.cycle hc) (fun _ hs => hs) n (.inl rfl) h

/-- The transactions that change the run state, each in its own way. -/
theorem HostTx.perform_run {tx : HostTx} (h : tx.perform s = .next t) (hne : t.run ≠ s.run) :
    (s.run = .stopped ∧ t.run = .running ∧ tx = .start) ∨
    (s.run = .running ∧ t.run = .faulted ∧ t.faultCause ≠ .none ∧
      (tx = .cycle ∨ ∃ delta, tx = .tick delta)) ∨
    (t.run = .stopped ∧ tx = .reset) := by
  cases tx with
  | start =>
    cases h
    rcases s.start_cases with ⟨hr, hs⟩ | ⟨_, hs⟩ <;> rw [hs] at hne ⊢
    · exact .inl ⟨hr, rfl, rfl⟩
    · exact absurd rfl hne
  | cycle =>
    rcases KeptOrFaulted.cycle (.inl rfl) h with hkept | ⟨hr, hfaulted, hcause⟩
    · exact absurd hkept hne
    · exact .inr (.inl ⟨hr, hfaulted, hcause, .inl rfl⟩)
  | tick delta =>
    rcases keptOrFaulted_tickOf h with hkept | ⟨hr, hfaulted, hcause⟩
    · exact absurd hkept hne
    · exact .inr (.inl ⟨hr, hfaulted, hcause, .inr ⟨delta, rfl⟩⟩)
  | reset => cases h; exact .inr (.inr ⟨rfl, rfl⟩)
  | _ => exact absurd ((HostTx.perform_frame h).run (by simp [HostTx.mayWrite])) hne

end

/-- Settles O49: taking a transaction off the inbox leaves the run state to the transaction. -/
theorem runStateChangesOnlyAsListed : Obligations.RunStateChangesOnlyAsListed := by
  intro s t hstep hne
  rcases step_cases s with ⟨_, hs⟩ | ⟨tx, hp, hs⟩ <;> rw [hs] at hstep
  · cases hstep; exact absurd rfl hne
  · simpa [hp] using HostTx.perform_run hstep hne

/-! ## The loads, the keys, start, reset and the reads (R274 to R282) -/

theorem State.readByte_loadFont (s : State) {offset : Nat} (h : offset ≤ maxFontOffset) {k : Nat}
    (hk : k < fontGlyphs.length) : (s.loadFont offset).readByte (offset + k) = fontGlyphs[k] := by
  rw [s.loadFont_accepted h, State.setFontBase_readByte]
  exact s.readByte_storeBytes_in offset fontGlyphs k hk

/-- Settles O50: on each side of its bound a load is the store of its bytes, or nothing. -/
theorem loadsWriteTheirBytesOrAreRejected : Obligations.LoadsWriteTheirBytesOrAreRejected := by
  refine ⟨fun s offset hfit => ?_, fun s offset hpast => ?_, fun s bytes hfit => ?_,
    fun s bytes hpast => ?_⟩
  · exact ⟨_, rfl, if_neg (Nat.not_lt.2 hfit), s.fontBase_loadFont hfit,
      fun _ hk => s.readByte_loadFont hfit hk, HostTx.perform_frame (tx := .loadFont offset) rfl⟩
  · exact ⟨congrArg _ (s.loadFont_rejected hpast), if_pos hpast⟩
  · exact ⟨_, rfl, if_neg (Nat.not_lt.2 hfit), fun _ hk => s.readByte_loadRom hfit hk,
      HostTx.perform_frame (tx := .loadRom bytes) rfl⟩
  · exact ⟨congrArg _ (s.loadRom_rejected hpast), if_pos hpast⟩

/-- Settles O51: a write at a key number is seen at that number alone, and past the 16 keys nowhere. -/
theorem setKeyStateSetsOneKey : Obligations.SetKeyStateSetsOneKey := by
  refine fun s k pressed => ⟨_, rfl, fun j hj => ?_,
    HostTx.perform_frame (tx := .setKeyState k pressed) rfl⟩
  rw [if_congr eq_comm rfl rfl]
  exact Vector.getElem_setIfInBounds hj

/-- The state after `reset` is the reset state but for the model's own fields (log entry 22). -/
theorem untouched_reset_resetCore (s : State) :
    Untouched (fun p => p = .draws ∨ p = .inbox ∨ p = .standing) State.reset s.resetCore := by
  constructor
  case draws => exact fun h => absurd (.inl rfl) h
  case inbox => exact fun h => absurd (.inr (.inl rfl)) h
  case standing => exact fun h => absurd (.inr (.inr rfl)) h
  case faultRecord => exact fun _ => ⟨rfl, rfl, rfl⟩
  all_goals intros; rfl

/-- Settles O52, by the two cases of `start` and the frame of `reset` against the reset state. -/
theorem startAndResetMoveTheRunState : Obligations.StartAndResetMoveTheRunState := by
  refine ⟨fun s hr => ?_, fun s hr => ?_, fun s => ?_⟩
  · exact ⟨s.setRun .running, congrArg _ (if_pos hr), rfl, untouched_setRun _ s _ rfl⟩
  · exact congrArg _ (if_neg hr)
  · exact ⟨_, rfl, untouched_reset_resetCore s, rfl, rfl, rfl⟩

/-- Settles O53: each read answers the state it is issued in and the value of its own rule. -/
theorem hostReadsChangeNothing : Obligations.HostReadsChangeNothing :=
  fun _ => ⟨⟨rfl, rfl⟩, ⟨rfl, rfl⟩, ⟨rfl, rfl⟩, ⟨rfl, rfl⟩⟩

end Sys2Proof.Machine
end

section
/-! PROOFS of the family spec/70_reset_and_hazards.md. The reset state is read piece by piece: the banks of
registers, pixels and keys hold one value throughout, and the other pieces are the values of R290. The
invariant at reset is its base case (`State.Inv.reset`). -/

namespace Sys2Proof.Machine

/-! ## What the banks of the reset state hold (R290) -/

@[simp] theorem State.getV_reset (x : Nibble) : State.reset.getV x = 0 :=
  Vector.getElem_replicate x.isLt

/-- The framebuffer at reset is the one that CLS leaves (R190, R290). -/
@[simp] theorem State.fb_reset : State.reset.fb = Framebuffer.clear := rfl

@[simp] theorem State.key_reset {k : Nat} (hk : k < 16) : State.reset.key[k] = false :=
  Vector.getElem_replicate hk

/-- Settles O54: the banks by their own lemmas, every other piece as `State.reset` gives it. -/
theorem resetStateIsAsListed : Obligations.ResetStateIsAsListed := by
  have pixels : ∀ px py, State.reset.fb.pixel px py = false := fun px py => by
    rw [State.fb_reset, Framebuffer.pixel_clear]
  exact ⟨State.getV_reset, rfl, rfl, rfl, rfl, rfl, pixels, fun _ hk => State.key_reset hk,
    rfl, rfl, rfl, rfl, rfl, rfl⟩

/-- Settles O55: the base case of the invariant that every step keeps. -/
theorem resetMeetsTheInvariant : Obligations.ResetMeetsTheInvariant := State.Inv.reset

end Sys2Proof.Machine
end
